-- ==== Sys2Proof/Word.lean ====
section
/-! DEFINITION. The words of the hardware: bytes of the serial line and PORT command words.
Follows spec 00_scope.md R9 (W_PORT), R10 and 30_encoding.md R70, R71. -/

namespace Sys2Proof

/-- One byte of the serial line (30_encoding.md R70). -/
abbrev Byte := BitVec 8

/-- One 16-bit PORT command word, bit 15 most significant (30_encoding.md R71, 20_memory.md R51). -/
abbrev PortWord := BitVec 16

end Sys2Proof
end

