-- ==== Sys2Proof/Config.lean ====
section
/-! DEFINITION. What an implementation fixes (the parameters of 00_scope.md R9) and the values the spec leaves
unspecified (70_reset_and_hazards.md R251, 20_memory.md R55). -/

namespace Sys2Proof

/-- THRESH_MODE: what an advance resets (41_trigger_counter.md R119). -/
inductive ThreshMode where
  /-- The count is reset: the normative value. -/
  | counter
  /-- The threshold is reset: the source's code as written. -/
  | legacy
  deriving DecidableEq, Repr

/-- Which host drives the port (42_port_interface.md R140, decision D1). -/
inductive HostProgram where
  /-- The serial front-end of 43_serial_host.md. -/
  | serial
  /-- A host that issues a fixed list of PORT words. -/
  | portList (words : List PortWord)
  deriving DecidableEq, Repr

/-- The parameters of 00_scope.md R9 that a model takes as arguments. T_MIN_PULSE is timing and no rule depends on
it (R9, 41_trigger_counter.md R113), so it has no field. -/
structure Params where
  /-- W_CNT, the width of NTRIG. -/
  wCnt : Nat
  /-- THRESH_MODE. -/
  threshMode : ThreshMode
  /-- LATCH_WHILE_DISABLED, an OPEN parameter (41_trigger_counter.md R114). -/
  latchWhileDisabled : Bool
  /-- SYNC_STAGES, the length of the synchronizer chain (41_trigger_counter.md R110). -/
  syncStages : Nat
  /-- ACTIVE_HIGH, electrical only (40_output_decoder.md R106). -/
  activeHigh : Bool
  /-- Which host is attached to the port. -/
  host : HostProgram
  deriving DecidableEq, Repr

/-- The bounds of 00_scope.md R9: W_CNT >= 8 and SYNC_STAGES >= 1. -/
abbrev Params.wf (p : Params) : Prop := 8 ≤ p.wCnt ∧ 1 ≤ p.syncStages

/-- The defaults of 00_scope.md R9. DESIGN CHOICE (log entry 3): LATCH_WHILE_DISABLED is OPEN, "no default"; this one
instance takes false, and no statement rests on it. -/
def Config.defaultParams : Params :=
  { wCnt := 16, threshMode := .counter, latchWhileDisabled := false, syncStages := 2, activeHigh := true,
    host := .serial }

/-- The draw of STATE at a RESET (10_state.md R23): any of 0..7. Log entry 2. -/
opaque Config.drawState : Nat → BitVec 3

/-- The draw of PINS at a RESET (10_state.md R29): any 5-bit value. Log entry 2. -/
opaque Config.drawPins : Nat → BitVec 5

/-- The unspecified value of SYNC[i] at a RESET (10_state.md R31): the second argument is i. Log entry 2. -/
opaque Config.drawSync : Nat → Nat → Bool

/-- The unspecified value of EDGE_PREV at a RESET (10_state.md R31). Log entry 2. -/
opaque Config.drawEdgePrev : Nat → Bool

/-- Whether SVC steps before HOST when both are enabled and the schedule names neither (20_memory.md R55 admits
both orders). Log entry 6. -/
opaque Config.serviceFirst : Nat → Bool

end Sys2Proof
end

