-- ==== Sys2Proof/Syntax.lean ====
section
/-! DEFINITION. The instructions: one constructor per row of spec/opcode_table.json (30_encoding.md R70 to R79). -/

namespace Sys2Proof

/-- One operation of the block or one byte class of its serial host. -/
inductive Instr where
  /-- APPLY s: drive the pins for state s (40_output_decoder.md R101). -/
  | apply (s : BitVec 3)
  /-- WRSTATE s (42_port_interface.md R142). -/
  | wrstate (s : BitVec 3)
  /-- WRNEPP n (42_port_interface.md R143). -/
  | wrnepp (n : BitVec 8)
  /-- WRREACT b (42_port_interface.md R144). -/
  | wrreact (b : BitVec 1)
  /-- WRLINE b (42_port_interface.md R145). -/
  | wrline (b : BitVec 1)
  /-- RDSTATE (42_port_interface.md R146). -/
  | rdstate
  /-- RDNEPP (42_port_interface.md R147). -/
  | rdnepp
  /-- RDCOUNT (42_port_interface.md R148). -/
  | rdcount
  /-- RDREACT (42_port_interface.md R149). -/
  | rdreact
  /-- RDLINE (42_port_interface.md R150). -/
  | rdline
  /-- RDPINS (42_port_interface.md R151). -/
  | rdpins
  /-- RDPEND (42_port_interface.md R152). -/
  | rdpend
  /-- A PORT word with the reserved OP 0x0; x is bits 11..0 (30_encoding.md R74). -/
  | reservedOp0 (x : BitVec 12)
  /-- A PORT word with the reserved OP 0x6 (30_encoding.md R74). -/
  | reservedOp6 (x : BitVec 12)
  /-- A PORT word with the reserved OP 0x7 (30_encoding.md R74). -/
  | reservedOp7 (x : BitVec 12)
  /-- A PORT word with the reserved OP 0xF (30_encoding.md R74). -/
  | reservedOpF (x : BitVec 12)
  /-- STAGE_STATE d, the bytes '1'..'7' in Idle (43_serial_host.md R174). -/
  | stageState (d : BitVec 3)
  /-- CONFIRM, the byte 0x0D in Idle (43_serial_host.md R179). -/
  | confirm
  /-- STAGE_TOGGLE, the byte 'i' in Idle (43_serial_host.md R176). -/
  | stageToggle
  /-- STAGE_NEPP, the byte 'n' in Idle (43_serial_host.md R177). -/
  | stageNepp
  /-- STAGE_NOP c, every other byte in Idle (43_serial_host.md R178). -/
  | stageNop (c : Byte)
  /-- ENTRY_DIGIT d, the bytes '0'..'9' in AwaitingDigitEntry (43_serial_host.md R184, R185). -/
  | entryDigit (d : BitVec 4)
  /-- ENTRY_IGNORE c, every other byte in AwaitingDigitEntry (43_serial_host.md R186). -/
  | entryIgnore (c : Byte)
  /-- TRIG: one synchronized rising edge (41_trigger_counter.md R111). -/
  | trig
  /-- RESET: power-on reset (70_reset_and_hazards.md R250). -/
  | reset
  /-- SERVICE: the trigger handler, one atomic step (41_trigger_counter.md R116). -/
  | service
  deriving DecidableEq, Repr

end Sys2Proof
end

