-- ==== Sys2Proof/WellFormed.lean ====
section
/-! DEFINITION. Which terms of `Instr` a row of spec/opcode_table.json names: the operand conditions of
30_encoding.md R72, R73, R75, R76 and R77. -/

namespace Sys2Proof

/-- The bytes '1'..'7' (30_encoding.md R75, row 1). -/
def isStateDigit (b : Byte) : Bool := decide (0x31 ≤ b.toNat ∧ b.toNat ≤ 0x37)

/-- The bytes '0'..'9' (30_encoding.md R77, row 1). -/
def isDecimalDigit (b : Byte) : Bool := decide (0x30 ≤ b.toNat ∧ b.toNat ≤ 0x39)

/-- The term stands for an encoding of its row: s and d of a state are not 0 (R72, R76), STAGE_NOP is the bytes that
no earlier row of R75 takes, a decimal digit is at most 9 and ENTRY_IGNORE is the bytes that are no digit (R77). The
reserved PORT rows are rows too, with any bits below OP (R74). -/
def Instr.wellFormed : Instr → Bool
  | .apply s => decide (s ≠ 0#3)
  | .wrstate s => decide (s ≠ 0#3)
  | .wrnepp _ => true
  | .wrreact _ => true
  | .wrline _ => true
  | .rdstate => true
  | .rdnepp => true
  | .rdcount => true
  | .rdreact => true
  | .rdline => true
  | .rdpins => true
  | .rdpend => true
  | .reservedOp0 _ => true
  | .reservedOp6 _ => true
  | .reservedOp7 _ => true
  | .reservedOpF _ => true
  | .stageState d => decide (d ≠ 0#3)
  | .confirm => true
  | .stageToggle => true
  | .stageNepp => true
  | .stageNop c => !isStateDigit c && decide (c ≠ 0x0D#8 ∧ c ≠ 0x69#8 ∧ c ≠ 0x6E#8)
  | .entryDigit d => decide (d.toNat ≤ 9)
  | .entryIgnore c => !isDecimalDigit c
  | .trig => true
  | .reset => true
  | .service => true

end Sys2Proof
end

