-- ==== Sys2Proof/Decode.lean ====
section
/-! DEFINITION. Decoding and encoding: PORT words (30_encoding.md R71 to R74), serial bytes in each mode (R75 to R78)
and the events that carry no bits (R79). -/

namespace Sys2Proof

/-- Why a PORT word stands for no instruction. The other reserved conditions of 30_encoding.md R74 are instructions
whose meaning is the fault: the reserved OP rows of the opcode table, and APPLY and WRSTATE with s = 0 (log entry 10). -/
inductive DecodeError where
  /-- RSV, or a DATA bit that R72 requires to be 0, is not 0 (R74, condition 2). Safe: the port faults. -/
  | reservedBits (w : PortWord)
  deriving DecidableEq, Repr

/-- The OP field, bits 15..12 (30_encoding.md R71). -/
def PortWord.op (w : PortWord) : BitVec 4 := w.extractLsb' 12 4

/-- The RSV field, bits 11..8 (30_encoding.md R71). -/
def PortWord.rsv (w : PortWord) : BitVec 4 := w.extractLsb' 8 4

/-- The DATA field, bits 7..0 (30_encoding.md R71). -/
def PortWord.data (w : PortWord) : BitVec 8 := w.extractLsb' 0 8

/-- The word {OP, 0x0, DATA} (30_encoding.md R82). -/
def mkPort (op : BitVec 4) (data : BitVec 8) : PortWord := op ++ 0#4 ++ data

/-- The word of a reserved OP, with any bits below it (30_encoding.md R73). -/
def mkReserved (op : BitVec 4) (x : BitVec 12) : PortWord := op ++ x

/-- The reserved-bits check of 30_encoding.md R74: RSV = 0 and `pad` (the DATA bits that R72 requires to be 0) = 0. -/
def checkReserved (w : PortWord) (pad : Bool) (i : Instr) : Except DecodeError Instr :=
  if PortWord.rsv w = 0#4 ∧ pad then .ok i else .error (.reservedBits w)

/-- Operand s: DATA[2:0], DATA[7:3] must be 0 (30_encoding.md R72). -/
def decodeS (w : PortWord) (mk : BitVec 3 → Instr) : Except DecodeError Instr :=
  checkReserved w (decide ((PortWord.data w).extractLsb' 3 5 = 0#5)) (mk ((PortWord.data w).extractLsb' 0 3))

/-- Operand n: DATA[7:0], any value (30_encoding.md R72). -/
def decodeN (w : PortWord) (mk : BitVec 8 → Instr) : Except DecodeError Instr :=
  checkReserved w true (mk (PortWord.data w))

/-- Operand b: DATA[0], DATA[7:1] must be 0 (30_encoding.md R72). -/
def decodeB (w : PortWord) (mk : BitVec 1 → Instr) : Except DecodeError Instr :=
  checkReserved w (decide ((PortWord.data w).extractLsb' 1 7 = 0#7)) (mk ((PortWord.data w).extractLsb' 0 1))

/-- No operand: DATA must be 0 (30_encoding.md R72). -/
def decodeNone (w : PortWord) (i : Instr) : Except DecodeError Instr :=
  checkReserved w (decide (PortWord.data w = 0#8)) i

/-- The opcode map of 30_encoding.md R73, total on the 65536 words; a reserved OP comes before the reserved bits
(R74's order). -/
def decodePort (w : PortWord) : Except DecodeError Instr :=
  if PortWord.op w = 0x0#4 then .ok (.reservedOp0 (w.extractLsb' 0 12))
  else if PortWord.op w = 0x1#4 then decodeS w .apply
  else if PortWord.op w = 0x2#4 then decodeS w .wrstate
  else if PortWord.op w = 0x3#4 then decodeN w .wrnepp
  else if PortWord.op w = 0x4#4 then decodeB w .wrreact
  else if PortWord.op w = 0x5#4 then decodeB w .wrline
  else if PortWord.op w = 0x6#4 then .ok (.reservedOp6 (w.extractLsb' 0 12))
  else if PortWord.op w = 0x7#4 then .ok (.reservedOp7 (w.extractLsb' 0 12))
  else if PortWord.op w = 0x8#4 then decodeNone w .rdstate
  else if PortWord.op w = 0x9#4 then decodeNone w .rdnepp
  else if PortWord.op w = 0xA#4 then decodeNone w .rdcount
  else if PortWord.op w = 0xB#4 then decodeNone w .rdreact
  else if PortWord.op w = 0xC#4 then decodeNone w .rdline
  else if PortWord.op w = 0xD#4 then decodeNone w .rdpins
  else if PortWord.op w = 0xE#4 then decodeNone w .rdpend
  else .ok (.reservedOpF (w.extractLsb' 0 12))

/-- The class of a byte received in Idle: the first row of 30_encoding.md R75 that matches. The digit of
STAGE_STATE is b - 0x30 (R76), which is the byte's low three bits. -/
def decodeIdle (b : Byte) : Instr :=
  if isStateDigit b then .stageState (b.extractLsb' 0 3)
  else if b = 0x0D#8 then .confirm
  else if b = 0x69#8 then .stageToggle
  else if b = 0x6E#8 then .stageNepp
  else .stageNop b

/-- The class of a byte received in AwaitingDigitEntry (30_encoding.md R77). The digit is b - 0x30, which is the
byte's low four bits. -/
def decodeEntry (b : Byte) : Instr :=
  if isDecimalDigit b then .entryDigit (b.extractLsb' 0 4) else .entryIgnore b

/-- The rows of the opcode table that carry no bits (30_encoding.md R79; SERVICE is an internal step). -/
inductive BitlessRow where
  | trig
  | reset
  | service
  deriving DecidableEq, Repr

/-- An encoded instruction with its format (30_encoding.md R70). A serial byte belongs to the format of the mode that
it is received in (R78). -/
inductive Encoding where
  | port (w : PortWord)
  | serIdle (b : Byte)
  | serEntry (b : Byte)
  | bitless (r : BitlessRow)
  deriving DecidableEq, Repr

/-- Decoding of every format. -/
def decode : Encoding → Except DecodeError Instr
  | .port w => decodePort w
  | .serIdle b => .ok (decodeIdle b)
  | .serEntry b => .ok (decodeEntry b)
  | .bitless .trig => .ok .trig
  | .bitless .reset => .ok .reset
  | .bitless .service => .ok .service

/-- The PORT word of a flag bit operand (30_encoding.md R72). -/
def bitData (b : BitVec 1) : BitVec 8 := 0#7 ++ b

/-- The PORT word of a state operand (30_encoding.md R72). -/
def stateData (s : BitVec 3) : BitVec 8 := 0#5 ++ s

/-- The encoder, written from 30_encoding.md R73, R75, R77 and R79. -/
def encode : Instr → Encoding
  | .apply s => .port (mkPort 0x1#4 (stateData s))
  | .wrstate s => .port (mkPort 0x2#4 (stateData s))
  | .wrnepp n => .port (mkPort 0x3#4 n)
  | .wrreact b => .port (mkPort 0x4#4 (bitData b))
  | .wrline b => .port (mkPort 0x5#4 (bitData b))
  | .rdstate => .port (mkPort 0x8#4 0#8)
  | .rdnepp => .port (mkPort 0x9#4 0#8)
  | .rdcount => .port (mkPort 0xA#4 0#8)
  | .rdreact => .port (mkPort 0xB#4 0#8)
  | .rdline => .port (mkPort 0xC#4 0#8)
  | .rdpins => .port (mkPort 0xD#4 0#8)
  | .rdpend => .port (mkPort 0xE#4 0#8)
  | .reservedOp0 x => .port (mkReserved 0x0#4 x)
  | .reservedOp6 x => .port (mkReserved 0x6#4 x)
  | .reservedOp7 x => .port (mkReserved 0x7#4 x)
  | .reservedOpF x => .port (mkReserved 0xF#4 x)
  | .stageState d => .serIdle (0b00110#5 ++ d)
  | .confirm => .serIdle 0x0D#8
  | .stageToggle => .serIdle 0x69#8
  | .stageNepp => .serIdle 0x6E#8
  | .stageNop c => .serIdle c
  | .entryDigit d => .serEntry (0b0011#4 ++ d)
  | .entryIgnore c => .serEntry c
  | .trig => .bitless .trig
  | .reset => .bitless .reset
  | .service => .bitless .service

/-- The instruction that a byte of the opcode table stands for when no mode is given (log entry 11): its class in
Idle, the mode after reset; but '0', '8' and '9', which have no class of their own in Idle (R75), name their
SER_ENTRY row. -/
def decodeTableByte (b : Byte) : Instr :=
  if isDecimalDigit b ∧ ¬ isStateDigit b then decodeEntry b else decodeIdle b

/-- The decoder on an instruction given as the opcode table numbers its bits: 16 bits are a PORT word, 8 bits a serial
byte. The rows without bits have no word (log entry 11). -/
def decodeTableWord (nbits w : Nat) : Option Instr :=
  if nbits = 16 then
    match decodePort (BitVec.ofNat 16 w) with
    | .ok i => some i
    | .error _ => none
  else if nbits = 8 then some (decodeTableByte (BitVec.ofNat 8 w))
  else none

end Sys2Proof
end

