-- ==== Sys2Proof/Machine/HostTypes.lean ====
section
/-! DEFINITION. The types of the host front-end's private state (10_state.md R34) and of its position in its sequence
of micro-steps (10_state.md R22, 20_memory.md R56). -/

namespace Sys2Proof.Machine

/-- MODE (10_state.md R34, 43_serial_host.md R170). -/
inductive Mode where
  | idle
  | awaitingDigitEntry
  deriving DecidableEq, Repr

/-- The two values of PI besides none (10_state.md R34); their codes carry no meaning (R35). -/
inductive PendingInstr where
  | toggleTriggerReaction
  | setPulseThreshold
  deriving DecidableEq, Repr

/-- What one host micro-step after the first of a byte does (20_memory.md R56). -/
inductive HostAct where
  /-- TX(b): one transmitted byte. -/
  | tx (b : Byte)
  /-- One port operation, given as its PORT word (42_port_interface.md R140). -/
  | port (w : PortWord)
  deriving DecidableEq, Repr

/-- What the host does with the same micro-step, after its act: a private update, or a choice that uses the value a
read returned (43_serial_host.md R172, R180 to R182, R185). -/
inductive HostThen where
  | nothing
  /-- PDS <- none (R180, step 3). -/
  | clearPds
  /-- PI <- none (R181, R185). -/
  | clearPi
  /-- TENS <- none; MODE <- AwaitingDigitEntry (R182). -/
  | enterEntry
  /-- TENS <- none; MODE <- Idle (R185). -/
  | leaveEntry
  /-- The value read is the number of a message that starts with `pre` (R172 step 2, R180 step 8). -/
  | printValue (pre : List Byte)
  /-- If the value read is 1, a newline and WRLINE 0 come next (R180, steps 5 and 6). -/
  | closeLine
  /-- With the value r read, WRREACT (1 - r) and its message come next (R181). -/
  | flipReact
  deriving DecidableEq, Repr

/-- One host micro-step: an act and what goes with it. -/
structure HostMicro where
  act : HostAct
  andThen : HostThen
  deriving DecidableEq, Repr

end Sys2Proof.Machine
end

