-- ==== Sys2Proof/Machine/Messages.lean ====
section
/-! DEFINITION. The byte strings the block and the host transmit (30_encoding.md R80) and the decimal spelling dec(v)
(00_scope.md R10). -/

namespace Sys2Proof.Machine

/-- The ASCII byte of a decimal digit (00_scope.md R10). -/
def digitByte (d : Nat) : Byte := BitVec.ofNat 8 (0x30 + d)

/-- The digits of n before those in `acc`, most significant first; `fuel` bounds how many. -/
def decDigits : Nat → Nat → List Byte → List Byte
  | 0, _, acc => acc
  | fuel + 1, n, acc =>
    if n / 10 = 0 then digitByte (n % 10) :: acc else decDigits fuel (n / 10) (digitByte (n % 10) :: acc)

/-- dec(v): the ASCII decimal spelling, no sign, no padding, no leading zeros (00_scope.md R10). A number has at most
as many digits as it has units, and 0 has one. -/
def dec (n : Nat) : List Byte := decDigits (n + 1) n []

/-- The ASCII bytes of a text (00_scope.md R10). -/
def ascii (cs : List Char) : List Byte := cs.map fun c => BitVec.ofNat 8 c.toNat

/-- '\n' (00_scope.md R10). -/
def newline : Byte := 0x0A#8

/-- '\b' (00_scope.md R10). -/
def backspace : Byte := 0x08#8

/-- "state ", the start of M1. -/
def statePrefix : List Byte := ascii ['s', 't', 'a', 't', 'e', ' ']

/-- "state was set to ", the start of M2. -/
def stateSetPrefix : List Byte :=
  statePrefix ++ ascii ['w', 'a', 's', ' ', 's', 'e', 't', ' ', 't', 'o', ' ']

/-- "n_epp was set to ", the start of M6. -/
def neppSetPrefix : List Byte :=
  ascii ['n', '_', 'e', 'p', 'p', ' ', 'w', 'a', 's', ' ', 's', 'e', 't', ' ', 't', 'o', ' ']

/-- M1 STATUS: "state " dec(STATE) '\n'. -/
def msgStatus (v : Nat) : List Byte := statePrefix ++ dec v ++ [newline]

/-- M2 SET: "state was set to " dec(STATE) '\n'. -/
def msgStateSet (v : Nat) : List Byte := stateSetPrefix ++ dec v ++ [newline]

/-- " react to triggers", the common part of M3 and M4. -/
def reactText : List Byte :=
  ascii [' ', 'r', 'e', 'a', 'c', 't', ' ', 't', 'o', ' ', 't', 'r', 'i', 'g', 'g', 'e', 'r', 's']

/-- M3 REACT_OFF: "I DON'T react to triggers!" '\n'; the apostrophe is 0x27. -/
def msgReactOff : List Byte :=
  ascii ['I', ' ', 'D', 'O', 'N'] ++ [0x27#8] ++ ascii ['T'] ++ reactText ++ ascii ['!'] ++ [newline]

/-- M4 REACT_ON: "I DO react to triggers" '\n'. -/
def msgReactOn : List Byte := ascii ['I', ' ', 'D', 'O'] ++ reactText ++ [newline]

/-- M5 PROMPT: "Please type desired n_epp: ", no newline. -/
def msgPrompt : List Byte :=
  ascii ['P', 'l', 'e', 'a', 's', 'e', ' ', 't', 'y', 'p', 'e', ' ', 'd', 'e', 's', 'i', 'r', 'e', 'd', ' '] ++
    ascii ['n', '_', 'e', 'p', 'p', ':', ' ']

/-- M6 NEPP_SET: "n_epp was set to " dec(n) '\n'. -/
def msgNeppSet (n : Nat) : List Byte := neppSetPrefix ++ dec n ++ [newline]

/-- M7 READOUT: three backspaces, 'n', dec(NTRIG), '\n'. -/
def msgReadout (n : Nat) : List Byte :=
  [backspace, backspace, backspace] ++ ascii ['n'] ++ dec n ++ [newline]

end Sys2Proof.Machine
end

