-- ==== Sys2Proof/Machine/Scripts.lean ====
section
/-! DEFINITION. The host front-end's sequences of micro-steps, in the order the rules of 43_serial_host.md list them
(20_memory.md R57). The micro-step that consumes the byte is the meaning of the byte's class; a script is what comes
after it. -/

namespace Sys2Proof.Machine

/-- The PORT word of a port operation (30_encoding.md R73, R82). No other instruction is given to it. -/
def portOf (i : Instr) : PortWord :=
  match encode i with
  | .port w => w
  | .serIdle _ => 0#16
  | .serEntry _ => 0#16
  | .bitless _ => 0#16

/-- A port operation as a micro-step. -/
def microPort (i : Instr) (t : HostThen) : HostMicro := { act := .port (portOf i), andThen := t }

/-- One TX as a micro-step. -/
def microTx (b : Byte) (t : HostThen) : HostMicro := { act := .tx b, andThen := t }

/-- TXS of a message, one TX step per byte, with `t` going with the last TX step (R181, R182, R185). -/
def microTxs : List Byte → HostThen → List HostMicro
  | [], _ => []
  | [b], t => [microTx b t]
  | b :: c :: bs, t => microTx b .nothing :: microTxs (c :: bs) t

/-- BOOT (43_serial_host.md R172): RDSTATE, then M1 with the value read. -/
def bootScript : List HostMicro := [microPort .rdstate (.printValue statePrefix)]

/-- STAGE_STATE d after its RX (43_serial_host.md R174): backspace, the digit, WRLINE 1. -/
def stageStateScript (d : BitVec 3) : List HostMicro :=
  [microTx backspace .nothing, microTx (digitByte d.toNat) .nothing, microPort (.wrline 1#1) .nothing]

/-- LETTER c after its RX (43_serial_host.md R175): the echo. -/
def letterScript (c : Byte) : List HostMicro := [microTx c .nothing]

/-- CONFIRM_STATE (43_serial_host.md R180), steps 2 to 4 and 7; steps 5, 6 and 8 follow the reads. -/
def confirmStateScript (d : BitVec 3) : List HostMicro :=
  [microPort (.apply d) .nothing, microPort (.wrstate d) .clearPds, microPort .rdline .closeLine,
    microPort .rdstate (.printValue stateSetPrefix)]

/-- CONFIRM_STATE, steps 5 and 6: the closing newline and WRLINE 0 (43_serial_host.md R180). -/
def closeLineScript : List HostMicro := [microTx newline .nothing, microPort (.wrline 0#1) .nothing]

/-- CONFIRM_TOGGLE (43_serial_host.md R181), step 2; the rest follows the read. -/
def confirmToggleScript : List HostMicro := [microPort .rdreact .flipReact]

/-- CONFIRM_TOGGLE from step 3, with r the value read (43_serial_host.md R181). -/
def flipReactScript (r : Nat) : List HostMicro :=
  microPort (.wrreact (BitVec.ofNat 1 (1 - r))) .nothing ::
    microTxs (if r = 1 then msgReactOff else msgReactOn) .clearPi

/-- CONFIRM_NEPP (43_serial_host.md R182). -/
def confirmNeppScript : List HostMicro := microPort (.wrreact 0#1) .nothing :: microTxs msgPrompt .enterEntry

/-- ENTRY_SECOND after its RX, with n the threshold entered (43_serial_host.md R185). -/
def entrySecondScript (n : BitVec 8) : List HostMicro :=
  microPort (.wrnepp n) .nothing ::
    (microTxs (msgNeppSet n.toNat) .clearPi ++ [microPort (.wrreact 1#1) .leaveEntry])

end Sys2Proof.Machine
end

