-- ==== Sys2Proof/Machine/State.lean ====
section
/-! DEFINITION. The state (10_state.md R20), the reasons a step can stop (60_exceptions.md R221) and the state right
after reset (70_reset_and_hazards.md R251). -/

namespace Sys2Proof.Machine

/-- One entry of the run's total order of steps (20_memory.md R55, 30_encoding.md R82): which agent steps, and for an
environment step what it brings. Log entry 5. -/
inductive Event where
  /-- TRIGSRC: one synchronized rising edge (41_trigger_counter.md R111). -/
  | trig
  /-- The power supply: RESET (70_reset_and_hazards.md R250). -/
  | reset
  /-- RXSRC appends one byte to RXQ (43_serial_host.md R171). -/
  | rx (b : Byte)
  /-- SVC takes a SERVICE step (41_trigger_counter.md R115). -/
  | svc
  /-- HOST takes one micro-step (20_memory.md R56). -/
  | host
  /-- HOSTRUN: host micro-steps until the host waits (30_encoding.md R82). -/
  | hostRun
  /-- The environment drives TRIG_IN to a level (10_state.md R38). -/
  | level (l : Bool)
  /-- The input stage takes a SAMPLE (41_trigger_counter.md R110). Log entry 12. -/
  | sample
  deriving DecidableEq, Repr

/-- The state of the block, its host, its channels and its environment (10_state.md R20). -/
@[ext]
structure State where
  /-- STATE, the current output state (R23). -/
  state : BitVec 3
  /-- NEPP, the pulse threshold (R25). -/
  nepp : BitVec 8
  /-- NTRIG, the pulse count, W_CNT bits: below 2 ^ wCnt (R26). Log entry 4. -/
  ntrig : Nat
  /-- REACT, the trigger-reaction enable (R27). -/
  react : BitVec 1
  /-- PEND, the trigger-pending latch (R28). -/
  pend : BitVec 1
  /-- PINS, the levels of the five output pins (R29). -/
  pins : BitVec 5
  /-- LINE, the open-line flag (R30). -/
  line : BitVec 1
  /-- SYNC[0..SYNC_STAGES-1], SYNC[0] first (R31). -/
  sync : List Bool
  /-- EDGE_PREV (R31). -/
  edgePrev : Bool
  /-- TRIG_IN (R38). -/
  trigIn : Bool
  /-- MODE (R34). -/
  mode : Mode
  /-- PDS, the staged state (R34). -/
  pds : Option (BitVec 3)
  /-- PI, the staged instruction (R34). -/
  pi : Option PendingInstr
  /-- TENS, the tens digit (R34). -/
  tens : Option (BitVec 4)
  /-- The host's position: the micro-steps still to take, next first (R22, 20_memory.md R56). Log entry 8. -/
  hostPos : List HostMicro
  /-- The PORT words a port-list host has still to issue (42_port_interface.md R140). Log entry 14. -/
  portq : List PortWord
  /-- The value the last read operation returned (42_port_interface.md R140). Log entry 15. -/
  portData : Nat
  /-- RXQ, oldest first (R36). -/
  rxq : List Byte
  /-- TXQ, oldest first (R37). -/
  txq : List Byte
  /-- The parameters (00_scope.md R9); no step changes them. Log entry 3. -/
  cfg : Params
  /-- The part of the run's total order still to come, next first. Log entry 5. -/
  sched : List Event
  /-- The counter of free values. Log entry 2. -/
  freeCount : Nat
  deriving DecidableEq, Repr

/-- Why the machine stops (60_exceptions.md R221). Each is safe: the spec gives the word no meaning and no state
changes (42_port_interface.md R141). The value recorded is the word. -/
inductive Fault where
  /-- Code 1, raised by a PORT word with OP 0x0, 0x6, 0x7 or 0xF. -/
  | reservedOp (w : PortWord)
  /-- Code 2, raised by a PORT word with RSV, or a DATA bit that must be 0, not 0. -/
  | reservedBits (w : PortWord)
  /-- Code 3, raised by APPLY and WRSTATE with s = 0. -/
  | stateRange (w : PortWord)
  deriving DecidableEq, Repr

/-- Why a step is refused. -/
inductive Refusal where
  /-- Raised by an arm of `exec` whose instruction has no meaning yet. Safe. No arm raises it. -/
  | notModelled (mnemonic : String)
  deriving DecidableEq, Repr

/-- The machine right after reset (70_reset_and_hazards.md R251), with the default parameters of 00_scope.md R9 and
the serial host at the start of BOOT (43_serial_host.md R172). DESIGN CHOICE (log entry 1): STATE, PINS, SYNC and
EDGE_PREV, which R251 leaves unspecified, and TRIG_IN are 0 here; the instruction RESET draws them. -/
def State.reset : State :=
  { state := 0#3, nepp := 1#8, ntrig := 0, react := 1#1, pend := 0#1, pins := 0#5, line := 0#1,
    sync := List.replicate Config.defaultParams.syncStages false, edgePrev := false, trigIn := false,
    mode := .idle, pds := none, pi := none, tens := none, hostPos := bootScript, portq := [], portData := 0,
    rxq := [], txq := [], cfg := Config.defaultParams, sched := [], freeCount := 0 }

end Sys2Proof.Machine
end

