-- ==== Sys2Proof/Machine/Flags.lean ====
section
/-! DEFINITION. The conditions over the flags REACT and PEND (10_state.md R32): when a trigger is latched, when SERVICE
is enabled and when the host has a step. The block has no condition codes. -/

namespace Sys2Proof.Machine

/-- A synchronized edge is latched: REACT = 1 or LATCH_WHILE_DISABLED (41_trigger_counter.md R111, R114). -/
def latchesTrigger (s : State) : Bool := decide (s.react = 1#1) || s.cfg.latchWhileDisabled

/-- SERVICE is enabled exactly when PEND = 1 and REACT = 1 (41_trigger_counter.md R115). -/
def serviceEnabled (s : State) : Bool := decide (s.pend = 1#1 ∧ s.react = 1#1)

/-- The host has no step: it is between bytes and there is nothing for it to take (43_serial_host.md R171). A
port-list host takes no serial byte (42_port_interface.md R140). -/
def hostWaits (s : State) : Bool :=
  s.hostPos.isEmpty && s.portq.isEmpty && (s.rxq.isEmpty || decide (s.cfg.host ≠ .serial))

end Sys2Proof.Machine
end

