-- ==== Sys2Proof/Machine/Operands.lean ====
section
/-! DEFINITION. Operand forms: the zero extension of a value read (42_port_interface.md R140) and the numbers the
serial host makes of digits (43_serial_host.md R185). -/

namespace Sys2Proof.Machine

/-- A register value zero-extended to the width the host receives (42_port_interface.md R140). -/
def zext {w : Nat} (v : BitVec w) : Nat := v.toNat

/-- 10 * TENS + ones, in 0..99 for digits 0..9, as the 8-bit threshold (43_serial_host.md R185, 41 R117). -/
def entryValue (tens ones : BitVec 4) : BitVec 8 := BitVec.ofNat 8 (10 * tens.toNat + ones.toNat)

end Sys2Proof.Machine
end

