-- ==== Sys2Proof/Machine/OutputDecoder.lean ====
section
/-! DEFINITION. The output decoder and the cycle of states (40_output_decoder.md R100, 41_trigger_counter.md R120). -/

namespace Sys2Proof.Machine

/-- `decode(s)` of 40_output_decoder.md R100, PINS bit 0 last: Right-2, Left-3, Right-1, Left-2, Left-1 from the bits
of c = s - 1. R100 defines it for s in 1..7 only; every caller gives such an s (R105, log entry 16). -/
def pinsOf (s : BitVec 3) : BitVec 5 :=
  let c := s - 1#3
  c.extractLsb' 2 1 ++ c.extractLsb' 2 1 ++ c.extractLsb' 1 1 ++ c.extractLsb' 1 1 ++ c.extractLsb' 0 1

/-- `succ(s)`: s + 1 if that is at most 7, else 1 (41_trigger_counter.md R120). -/
def succState (s : BitVec 3) : BitVec 3 := if s.toNat + 1 ≤ 7 then BitVec.ofNat 3 (s.toNat + 1) else 1#3

/-- The electrical level (true = high) of the pin of PINS bit i (40_output_decoder.md R106): bit 1 is the asserted
level, high when ACTIVE_HIGH. An observation; no rule depends on it. -/
def pinIsHigh (activeHigh : Bool) (pins : BitVec 5) (i : Fin 5) : Bool :=
  if activeHigh then pins.getLsbD i else !pins.getLsbD i

end Sys2Proof.Machine
end

