-- ==== Sys2Proof/Machine/Ops.lean ====
section
/-! DEFINITION. The operations that the meanings share. The block has no memory (20_memory.md R50) and raises no
exception (60_exceptions.md R220): taking the trigger interrupt saves nothing and is SERVICE itself (R224, R225), in
Machine/Trigger.lean. -/

namespace Sys2Proof.Machine

/-- The code of a fault (60_exceptions.md R221). -/
def faultCode : Fault → Nat
  | .reservedOp _ => 1
  | .reservedBits _ => 2
  | .stateRange _ => 3

/-- The word a fault records (60_exceptions.md R221). -/
def faultWord : Fault → PortWord
  | .reservedOp w => w
  | .reservedBits w => w
  | .stateRange w => w

/-- The fault of a word that decodes to no instruction (30_encoding.md R74, condition 2). -/
def faultOf : DecodeError → Fault
  | .reservedBits w => .reservedBits w

/-- TXS: append bytes to TXQ (00_scope.md R12). -/
def State.transmit (s : State) (bs : List Byte) : State := { s with txq := s.txq ++ bs }

/-- The read value reaches the host; no register changes (42_port_interface.md R140, 20_memory.md R53). -/
def State.returnValue (s : State) (v : Nat) : State := { s with portData := v }

/-- PINS <- decode(d), all five pins in one step (40_output_decoder.md R101, R102). -/
def State.drivePins (s : State) (d : BitVec 3) : State := { s with pins := pinsOf d }

/-- The host goes on with the micro-steps of `p` (20_memory.md R57). -/
def State.startScript (s : State) (p : List HostMicro) : State := { s with hostPos := p }

/-- A port operation with a state operand: s = 0 is out of range and changes nothing (30_encoding.md R74, condition
3); `w` is its PORT word and `t` the state it leads to. -/
def stateRangeChecked (d : BitVec 3) (w : PortWord) (t : State) : Host.Outcome State Fault Refusal :=
  if d = 0#3 then .fault (.stateRange w) else .next t

end Sys2Proof.Machine
end

