-- ==== Sys2Proof/Machine/Port.lean ====
section
/-! DEFINITION. The meanings of the port operations (40_output_decoder.md R101, 42_port_interface.md R140 to R152) and
of the reserved PORT rows (30_encoding.md R74). Each is one atomic step. -/

namespace Sys2Proof.Machine

/-- APPLY s writes PINS only (40_output_decoder.md R101). -/
def execApply (d : BitVec 3) (s : State) : Host.Outcome State Fault Refusal :=
  stateRangeChecked d (portOf (.apply d)) (s.drivePins d)

/-- WRSTATE s writes STATE only (42_port_interface.md R142). -/
def execWrstate (d : BitVec 3) (s : State) : Host.Outcome State Fault Refusal :=
  stateRangeChecked d (portOf (.wrstate d)) { s with state := d }

/-- WRNEPP n writes NEPP only (42_port_interface.md R143). -/
def execWrnepp (n : BitVec 8) (s : State) : Host.Outcome State Fault Refusal := .next { s with nepp := n }

/-- WRREACT b writes REACT only; PEND stays (42_port_interface.md R144). -/
def execWrreact (b : BitVec 1) (s : State) : Host.Outcome State Fault Refusal := .next { s with react := b }

/-- WRLINE b writes LINE only (42_port_interface.md R145). -/
def execWrline (b : BitVec 1) (s : State) : Host.Outcome State Fault Refusal := .next { s with line := b }

/-- RDSTATE (42_port_interface.md R146). -/
def execRdstate (s : State) : Host.Outcome State Fault Refusal := .next (s.returnValue (zext s.state))

/-- RDNEPP (42_port_interface.md R147). -/
def execRdnepp (s : State) : Host.Outcome State Fault Refusal := .next (s.returnValue (zext s.nepp))

/-- RDCOUNT (42_port_interface.md R148). -/
def execRdcount (s : State) : Host.Outcome State Fault Refusal := .next (s.returnValue s.ntrig)

/-- RDREACT (42_port_interface.md R149). -/
def execRdreact (s : State) : Host.Outcome State Fault Refusal := .next (s.returnValue (zext s.react))

/-- RDLINE (42_port_interface.md R150). -/
def execRdline (s : State) : Host.Outcome State Fault Refusal := .next (s.returnValue (zext s.line))

/-- RDPINS (42_port_interface.md R151). -/
def execRdpins (s : State) : Host.Outcome State Fault Refusal := .next (s.returnValue (zext s.pins))

/-- RDPEND (42_port_interface.md R152). -/
def execRdpend (s : State) : Host.Outcome State Fault Refusal := .next (s.returnValue (zext s.pend))

/-- OP 0x0 is reserved: Fault(RESERVED_OP) with the word, no state change (30_encoding.md R74). -/
def execReservedOp0 (x : BitVec 12) (_s : State) : Host.Outcome State Fault Refusal :=
  .fault (.reservedOp (portOf (.reservedOp0 x)))

/-- OP 0x6 is reserved (30_encoding.md R74). -/
def execReservedOp6 (x : BitVec 12) (_s : State) : Host.Outcome State Fault Refusal :=
  .fault (.reservedOp (portOf (.reservedOp6 x)))

/-- OP 0x7 is reserved (30_encoding.md R74). -/
def execReservedOp7 (x : BitVec 12) (_s : State) : Host.Outcome State Fault Refusal :=
  .fault (.reservedOp (portOf (.reservedOp7 x)))

/-- OP 0xF is reserved (30_encoding.md R74). -/
def execReservedOpF (x : BitVec 12) (_s : State) : Host.Outcome State Fault Refusal :=
  .fault (.reservedOp (portOf (.reservedOpF x)))

end Sys2Proof.Machine
end

