-- ==== Sys2Proof/Machine/Reset.lean ====
section
/-! DEFINITION. RESET (70_reset_and_hazards.md R250, R251) over the values that R251 leaves unspecified. -/

namespace Sys2Proof.Machine

/-- The draws of one reset (10_state.md R23, R29, R31). -/
structure ResetDraws where
  state : BitVec 3
  pins : BitVec 5
  sync : List Bool
  edgePrev : Bool
  deriving DecidableEq, Repr

/-- The PORT words that a host has to issue after a reset: none for the serial host (42_port_interface.md R140). -/
def hostWords : HostProgram → List PortWord
  | .serial => []
  | .portList ws => ws

/-- Where a host starts after a reset: BOOT for the serial host (43_serial_host.md R172); a port-list host has no BOOT
(42_port_interface.md R140, log entry 14). -/
def hostStart : HostProgram → List HostMicro
  | .serial => bootScript
  | .portList _ => []

/-- The whole state replaced by the values of 70_reset_and_hazards.md R251, with the draws `d`. The parameters, the
environment's TRIG_IN and schedule, and the counter of free values are no part of that state (log entry 13). -/
def resetWith (d : ResetDraws) (s : State) : State :=
  { s with
    state := d.state, nepp := 1#8, ntrig := 0, react := 1#1, pend := 0#1, pins := d.pins, line := 0#1,
    sync := d.sync, edgePrev := d.edgePrev, mode := .idle, pds := none, pi := none, tens := none,
    hostPos := hostStart s.cfg.host, portq := hostWords s.cfg.host, portData := 0, rxq := [], txq := [] }

/-- The free values of the k-th draw, for a chain of n stages (log entry 2). -/
def freeDraws (k n : Nat) : ResetDraws :=
  { state := Config.drawState k, pins := Config.drawPins k,
    sync := (List.range n).map (Config.drawSync k), edgePrev := Config.drawEdgePrev k }

/-- RESET: the values of R251, the unspecified ones free (70_reset_and_hazards.md R250, R251). -/
def execReset (s : State) : Host.Outcome State Fault Refusal :=
  .next (resetWith (freeDraws s.freeCount s.cfg.syncStages) { s with freeCount := s.freeCount + 1 })

end Sys2Proof.Machine
end

