-- ==== Sys2Proof/Machine/Serial.lean ====
section
/-! DEFINITION. The meanings of the serial bytes (43_serial_host.md R174 to R186). A meaning is the host's first
micro-step of the byte: the private updates that go with its RX, after which the rest of the rule is the host's position
(20_memory.md R56; log entry 8). The step removes the byte from RXQ. -/

namespace Sys2Proof.Machine

/-- STAGE_STATE d: PDS <- d, then the echo and WRLINE 1 (43_serial_host.md R174). -/
def execStageState (d : BitVec 3) (s : State) : Host.Outcome State Fault Refusal :=
  .next ({ s with pds := some d }.startScript (stageStateScript d))

/-- LETTER c with the instruction it stages, if any (43_serial_host.md R175): PDS <- none, PI as staged, then the
echo. LINE is not changed. -/
def letterBranch (c : Byte) (staged : Option PendingInstr) (s : State) : State :=
  { s with pds := none, pi := match staged with | some p => some p | none => s.pi }.startScript (letterScript c)

/-- STAGE_TOGGLE, the byte 'i' (43_serial_host.md R176). -/
def execStageToggle (s : State) : Host.Outcome State Fault Refusal :=
  .next (letterBranch 0x69#8 (some .toggleTriggerReaction) s)

/-- STAGE_NEPP, the byte 'n' (43_serial_host.md R177). -/
def execStageNepp (s : State) : Host.Outcome State Fault Refusal :=
  .next (letterBranch 0x6E#8 (some .setPulseThreshold) s)

/-- STAGE_NOP c: PI is unchanged (43_serial_host.md R178). -/
def execStageNop (c : Byte) (s : State) : Host.Outcome State Fault Refusal := .next (letterBranch c none s)

/-- The script that CONFIRM dispatches to: the first branch that applies (43_serial_host.md R179 to R183). -/
def confirmScript (pds : Option (BitVec 3)) (pi : Option PendingInstr) : List HostMicro :=
  match pds, pi with
  | some d, _ => confirmStateScript d
  | none, some .toggleTriggerReaction => confirmToggleScript
  | none, some .setPulseThreshold => confirmNeppScript
  | none, none => []

/-- CONFIRM, the byte '\r' (43_serial_host.md R179). No echo. -/
def execConfirm (s : State) : Host.Outcome State Fault Refusal := .next (s.startScript (confirmScript s.pds s.pi))

/-- ENTRY_DIGIT d: the first digit becomes TENS (43_serial_host.md R184), the second ends the entry (R185). -/
def execEntryDigit (d : BitVec 4) (s : State) : Host.Outcome State Fault Refusal :=
  match s.tens with
  | none => .next ({ s with tens := some d }.startScript [])
  | some t => .next (s.startScript (entrySecondScript (entryValue t d)))

/-- ENTRY_IGNORE c: consumed, no other effect (43_serial_host.md R186). -/
def execEntryIgnore (_c : Byte) (s : State) : Host.Outcome State Fault Refusal := .next (s.startScript [])

end Sys2Proof.Machine
end

