-- ==== Sys2Proof/Machine/Trigger.lean ====
section
/-! DEFINITION. The input stage and the pulse counter: TRIG, SAMPLE and SERVICE (41_trigger_counter.md R110 to R125). -/

namespace Sys2Proof.Machine

/-- PEND <- 1 when the edge is latched; else no state changes (41_trigger_counter.md R111). -/
def latchTrigger (s : State) : State := if latchesTrigger s then { s with pend := 1#1 } else s

/-- TRIG (41_trigger_counter.md R111). -/
def execTrig (s : State) : Host.Outcome State Fault Refusal := .next (latchTrigger s)

/-- The shift of the synchronizer: SYNC[0] <- TRIG_IN and SYNC[i] <- SYNC[i-1], all in the same sample
(41_trigger_counter.md R110). -/
def shiftSync (s : State) : List Bool := s.trigIn :: s.sync.dropLast

/-- SYNC[SYNC_STAGES-1] after the shift. -/
def syncOut (s : State) : Bool := (shiftSync s).getLastD s.trigIn

/-- SAMPLE: the shift, the edge test against EDGE_PREV, and TRIG on an edge (41_trigger_counter.md R110). -/
def sampleInput (s : State) : State :=
  let t := { s with sync := shiftSync s, edgePrev := syncOut s }
  if syncOut s && !s.edgePrev then latchTrigger t else t

/-- SERVICE step 1: NTRIG <- (NTRIG + 1) mod 2^W_CNT (41_trigger_counter.md R117). -/
def countPulse (s : State) : State := { s with ntrig := (s.ntrig + 1) % 2 ^ s.cfg.wCnt }

/-- The threshold test of step 2: unsigned equality, NEPP zero-extended (41_trigger_counter.md R118). -/
def thresholdReached (s : State) : Bool := decide (s.ntrig = zext s.nepp)

/-- What an advance resets, by THRESH_MODE (41_trigger_counter.md R119). -/
def resetOnAdvance (s : State) : State :=
  match s.cfg.threshMode with
  | .counter => { s with ntrig := 0 }
  | .legacy => { s with nepp := 0#8 }

/-- STATE <- succ(STATE) and the pins of the new state (41_trigger_counter.md R120, R121). -/
def advanceOutput (s : State) : State := { s with state := succState s.state }.drivePins (succState s.state)

/-- The newline that closes an open line, and LINE <- 0, when LINE = 1 (41_trigger_counter.md R122). -/
def closeHeldLine (s : State) : State := if s.line = 1#1 then { s with line := 0#1 }.transmit [newline] else s

/-- The status line M1 with the current STATE (41_trigger_counter.md R122). -/
def statusLine (s : State) : State := s.transmit (msgStatus (zext s.state))

/-- SERVICE step 2 when the threshold is reached (41_trigger_counter.md R116). -/
def advance (s : State) : State := statusLine (closeHeldLine (advanceOutput (resetOnAdvance s)))

/-- SERVICE step 3: the readout M7, always (41_trigger_counter.md R123). -/
def readout (s : State) : State := s.transmit (msgReadout s.ntrig)

/-- SERVICE step 4: the epilogue (41_trigger_counter.md R124). -/
def clearPending (s : State) : State := { s with pend := 0#1 }

/-- The whole trigger handler, steps 1 to 4 (41_trigger_counter.md R116). -/
def serviceTrigger (s : State) : State :=
  let counted := countPulse s
  clearPending (readout (if thresholdReached counted then advance counted else counted))

/-- SERVICE, one atomic step, enabled exactly when PEND = 1 and REACT = 1 (41_trigger_counter.md R115, R116). While
it is not enabled nothing happens: the whole service is held (60_exceptions.md R222; log entry 7). -/
def execService (s : State) : Host.Outcome State Fault Refusal :=
  .next (if serviceEnabled s then serviceTrigger s else s)

end Sys2Proof.Machine
end

