-- ==== Sys2Proof/Machine/Dispatch.lean ====
section
/-! DEFINITION. One arm per instruction: its meaning. -/

namespace Sys2Proof.Machine

def exec (i : Instr) (s : State) : Host.Outcome State Fault Refusal :=
  match i with
  | .apply d => Sys2Proof.Machine.execApply d s
  | .wrstate d => Sys2Proof.Machine.execWrstate d s
  | .wrnepp n => Sys2Proof.Machine.execWrnepp n s
  | .wrreact b => Sys2Proof.Machine.execWrreact b s
  | .wrline b => Sys2Proof.Machine.execWrline b s
  | .rdstate => Sys2Proof.Machine.execRdstate s
  | .rdnepp => Sys2Proof.Machine.execRdnepp s
  | .rdcount => Sys2Proof.Machine.execRdcount s
  | .rdreact => Sys2Proof.Machine.execRdreact s
  | .rdline => Sys2Proof.Machine.execRdline s
  | .rdpins => Sys2Proof.Machine.execRdpins s
  | .rdpend => Sys2Proof.Machine.execRdpend s
  | .reservedOp0 x => Sys2Proof.Machine.execReservedOp0 x s
  | .reservedOp6 x => Sys2Proof.Machine.execReservedOp6 x s
  | .reservedOp7 x => Sys2Proof.Machine.execReservedOp7 x s
  | .reservedOpF x => Sys2Proof.Machine.execReservedOpF x s
  | .stageState d => Sys2Proof.Machine.execStageState d s
  | .confirm => Sys2Proof.Machine.execConfirm s
  | .stageToggle => Sys2Proof.Machine.execStageToggle s
  | .stageNepp => Sys2Proof.Machine.execStageNepp s
  | .stageNop c => Sys2Proof.Machine.execStageNop c s
  | .entryDigit d => Sys2Proof.Machine.execEntryDigit d s
  | .entryIgnore c => Sys2Proof.Machine.execEntryIgnore c s
  | .trig => Sys2Proof.Machine.execTrig s
  | .reset => Sys2Proof.Machine.execReset s
  | .service => Sys2Proof.Machine.execService s

end Sys2Proof.Machine
end

