-- ==== Sys2Proof/Machine/HostStep.lean ====
section
/-! DEFINITION. The host's micro-steps (20_memory.md R56, 43_serial_host.md R173), the agents' steps (00_scope.md R8)
and the choice of the next one (20_memory.md R55). -/

namespace Sys2Proof.Machine

/-- One PORT word at the port: the check of 30_encoding.md R74 and the operation, one atomic step
(42_port_interface.md R140, R141). -/
def issuePort (w : PortWord) (s : State) : Host.Outcome State Fault Refusal :=
  match decodePort w with
  | .ok i => exec i s
  | .error e => .fault (faultOf e)

/-- A byte that the host takes is decoded by its mode (30_encoding.md R78, 43_serial_host.md R170). -/
def decodeSerial (m : Mode) (b : Byte) : Instr :=
  match m with
  | .idle => decodeIdle b
  | .awaitingDigitEntry => decodeEntry b

/-- The private updates and choices that go with a micro-step; the value read is `portData`. -/
def applyThen (t : HostThen) (s : State) : State :=
  match t with
  | .nothing => s
  | .clearPds => { s with pds := none }
  | .clearPi => { s with pi := none }
  | .enterEntry => { s with tens := none, mode := .awaitingDigitEntry }
  | .leaveEntry => { s with tens := none, mode := .idle }
  | .printValue pre => { s with hostPos := microTxs (pre ++ dec s.portData ++ [newline]) .nothing ++ s.hostPos }
  | .closeLine => if s.portData = 1 then { s with hostPos := closeLineScript ++ s.hostPos } else s
  | .flipReact => { s with hostPos := flipReactScript s.portData ++ s.hostPos }

/-- The act of a micro-step: one TX or one port operation (20_memory.md R56). -/
def runAct (a : HostAct) (s : State) : Host.Outcome State Fault Refusal :=
  match a with
  | .tx b => .next (s.transmit [b])
  | .port w => issuePort w s

/-- One micro-step of a script. -/
def runMicro (m : HostMicro) (s : State) : Host.Outcome State Fault Refusal :=
  match runAct m.act s with
  | .next t => .next (applyThen m.andThen t)
  | .fault f => .fault f
  | .refused r => .refused r

/-- One micro-step of HOST: the next of its script; else the next word of a port-list host; else the serial host takes
one byte (43_serial_host.md R171, R173); else it waits and nothing changes. -/
def hostStep (s : State) : Host.Outcome State Fault Refusal :=
  match s.hostPos with
  | m :: rest => runMicro m { s with hostPos := rest }
  | [] =>
    match s.portq with
    | w :: ws => issuePort w { s with portq := ws }
    | [] =>
      match s.cfg.host, s.rxq with
      | .serial, b :: bs => exec (decodeSerial s.mode b) { s with rxq := bs }
      | .serial, [] => .next s
      | .portList _, _ => .next s

/-- The rest of the host's current script with no other agent in between: at most n micro-steps. -/
def finishScript : Nat → State → Host.Outcome State Fault Refusal
  | 0, s => .next s
  | n + 1, s =>
    match s.hostPos with
    | [] => .next s
    | m :: rest =>
      match runMicro m { s with hostPos := rest } with
      | .next t => finishScript n t
      | .fault f => .fault f
      | .refused r => .refused r

/-- One step of the schedule: the agent or the environment does what the entry says. -/
def runEvent (e : Event) (s : State) : Host.Outcome State Fault Refusal :=
  match e with
  | .trig => exec .trig s
  | .reset => exec .reset s
  | .rx b => .next { s with rxq := s.rxq ++ [b] }
  | .svc => exec .service s
  | .host => hostStep s
  | .hostRun => hostStep s
  | .level l => .next { s with trigIn := l }
  | .sample => .next (sampleInput s)

/-- The schedule that is left after an entry: HOSTRUN stays until the host waits (30_encoding.md R82). -/
def afterEvent (e : Event) (rest : List Event) (s : State) : List Event :=
  match e with
  | .hostRun => if hostWaits s then rest else .hostRun :: rest
  | .trig => rest
  | .reset => rest
  | .rx _ => rest
  | .svc => rest
  | .host => rest
  | .level _ => rest
  | .sample => rest

/-- With no entry left, an enabled agent steps: SVC or HOST, and when both are enabled a free choice (20_memory.md
R55, log entry 6); when neither is, nothing changes (70_reset_and_hazards.md R255, log entry 7). -/
def unscheduledStep (s : State) : Host.Outcome State Fault Refusal :=
  match serviceEnabled s, hostWaits s with
  | true, true => exec .service s
  | false, _ => hostStep s
  | true, false =>
    if Config.serviceFirst s.freeCount then exec .service { s with freeCount := s.freeCount + 1 }
    else hostStep { s with freeCount := s.freeCount + 1 }

/-- The next step of the run. -/
def nextStep (s : State) : Host.Outcome State Fault Refusal :=
  match s.sched with
  | e :: rest => runEvent e { s with sched := afterEvent e rest s }
  | [] => unscheduledStep s

/-- The serial byte of an opcode-table row placed as the host's next byte, in the mode its row belongs to, the host
between bytes and named by the schedule (log entry 11). -/
def placeByte (b : Byte) (s : State) : State :=
  { s with
    rxq := b :: s.rxq, hostPos := [], portq := [], cfg := { s.cfg with host := .serial },
    mode := if isDecimalDigit b ∧ ¬ isStateDigit b then .awaitingDigitEntry else .idle,
    sched := .host :: s.sched }

/-- A PORT word placed as the next one the host issues (log entry 11). -/
def placePort (w : PortWord) (s : State) : State :=
  { s with portq := w :: s.portq, hostPos := [], sched := .host :: s.sched }

end Sys2Proof.Machine
end

