-- ==== Sys2Proof/Machine/Step.lean ====
section
/-! DEFINITION. One step of the machine, and where a word of the opcode table is placed for it. -/

namespace Sys2Proof.Machine

/-- One atomic step of one agent (20_memory.md R55, R56). -/
def step (s : State) : Host.Outcome State Fault Refusal := nextStep s

/-- `s` with an opcode-table word placed so that the next step runs exactly it (log entry 11). The rows without bits
have no word; the schedule names them. -/
def State.withFetchWord (s : State) (nbits w : Nat) : State :=
  if nbits = 16 then placePort (BitVec.ofNat 16 w) s
  else if nbits = 8 then placeByte (BitVec.ofNat 8 w) s
  else s

end Sys2Proof.Machine
end

