-- ==== Sys2Proof/Machine/Assembly.lean ====
section
/-! DEFINITION. The spec's assembly syntax as entries of the schedule (30_encoding.md R82) and its pseudo-instructions
(R83). A port mnemonic assembles to `portOf`; the other statements are the constructors of `Event`. -/

namespace Sys2Proof.Machine

/-- RXS "text": RX of each byte in order. -/
def asmRxs (text : List Byte) : List Event := text.map .rx

/-- TRIGN k: k times TRIG then SVC. -/
def asmTrign : Nat → List Event
  | 0 => []
  | k + 1 => .trig :: .svc :: asmTrign k

/-- SETSTATE d: the digit, then '\r'. -/
def asmSetstate (d : BitVec 3) : List Event := asmRxs [digitByte d.toNat, 0x0D#8]

/-- TOGGLE: 'i', then '\r'. -/
def asmToggle : List Event := asmRxs [0x69#8, 0x0D#8]

/-- SETNEPP t o: 'n', '\r', the tens digit, the ones digit. -/
def asmSetnepp (t o : BitVec 4) : List Event := asmRxs [0x6E#8, 0x0D#8, digitByte t.toNat, digitByte o.toNat]

end Sys2Proof.Machine
end

