-- ==== Sys2Proof/Safety.lean ====
section
/-! DEFINITION. The terms that claims about the machine are stated in: the conditions of 30_encoding.md R74 on a word,
the invariant of the state, runs of pulses, and the end of a run (70_reset_and_hazards.md R255). -/

namespace Sys2Proof.Machine

/-- The outcome of a step of this machine. -/
abbrev Result := Host.Outcome State Fault Refusal

/-- The DATA bits that 30_encoding.md R72 requires to be 0, by OP: s, n, b or no operand. -/
def zeroMask (op : BitVec 4) : BitVec 8 :=
  if op = 0x1#4 ∨ op = 0x2#4 then 0xF8#8
  else if op = 0x3#4 then 0x00#8
  else if op = 0x4#4 ∨ op = 0x5#4 then 0xFE#8
  else 0xFF#8

/-- Condition 1 of 30_encoding.md R74. -/
def HasReservedOp (w : PortWord) : Prop :=
  w.extractLsb' 12 4 = 0x0#4 ∨ w.extractLsb' 12 4 = 0x6#4 ∨ w.extractLsb' 12 4 = 0x7#4 ∨ w.extractLsb' 12 4 = 0xF#4

/-- Condition 2 of 30_encoding.md R74. -/
def HasReservedBits (w : PortWord) : Prop :=
  w.extractLsb' 8 4 ≠ 0#4 ∨ w.extractLsb' 0 8 &&& zeroMask (w.extractLsb' 12 4) ≠ 0#8

/-- Condition 3 of 30_encoding.md R74. -/
def HasStateOutOfRange (w : PortWord) : Prop :=
  (w.extractLsb' 12 4 = 0x1#4 ∨ w.extractLsb' 12 4 = 0x2#4) ∧ w.extractLsb' 0 3 = 0#3

/-- Both members of a switch-pair agree (40_output_decoder.md R104). -/
abbrev PairedPins (p : BitVec 5) : Prop := p.getLsbD 1 = p.getLsbD 2 ∧ p.getLsbD 3 = p.getLsbD 4

/-- The next SERVICE reaches the threshold (41_trigger_counter.md R117, R118). -/
abbrev NextServiceAdvances (s : State) : Prop := (s.ntrig + 1) % 2 ^ s.cfg.wCnt = s.nepp.toNat

/-- The next step is no RESET. -/
abbrev NotReset (s : State) : Prop := s.sched.head? ≠ some .reset

/-- A port operation that runs: it is no reserved row and its state operand is in range (30_encoding.md R74). -/
def portRuns : Instr → Bool
  | .apply d => decide (d ≠ 0#3)
  | .wrstate d => decide (d ≠ 0#3)
  | .reservedOp0 _ => false
  | .reservedOp6 _ => false
  | .reservedOp7 _ => false
  | .reservedOpF _ => false
  | _ => true

/-- A PORT word that runs: it is none of the reserved words (43_serial_host.md R188). -/
def wordRuns (w : PortWord) : Bool :=
  match decodePort w with
  | .ok i => portRuns i
  | .error _ => false

/-- The act of a micro-step runs. -/
def actRuns : HostAct → Bool
  | .tx _ => true
  | .port w => wordRuns w

/-- REACT after a port operation (42_port_interface.md R144). -/
def reactAfterPort (i : Instr) (r : BitVec 1) : BitVec 1 :=
  match i with
  | .wrreact b => b
  | _ => r

/-- REACT after an act. -/
def reactAfter (a : HostAct) (r : BitVec 1) : BitVec 1 :=
  match a with
  | .tx _ => r
  | .port w =>
    match decodePort w with
    | .ok i => reactAfterPort i r
    | .error _ => r

/-- MODE after what goes with a micro-step. -/
def modeAfter (t : HostThen) (m : Mode) : Mode :=
  match t with
  | .enterEntry => .awaitingDigitEntry
  | .leaveEntry => .idle
  | _ => m

/-- What the rules of 43_serial_host.md keep between a micro-step and those after it: entry is left with WRREACT 1
(R185), and the toggle's read is the last of its script (R181). -/
def linkOk (m : Mode) (x : HostMicro) (rest : List HostMicro) : Bool :=
  match x.andThen with
  | .leaveEntry => decide (x.act = .port (portOf (.wrreact 1#1)))
  | .flipReact => rest.isEmpty && decide (m = .idle)
  | _ => true

/-- REACT is 0 while MODE is AwaitingDigitEntry (43_serial_host.md R182, R187). -/
def entryDisabled (m : Mode) (r : BitVec 1) : Bool := decide (m = .idle ∨ r = 0#1)

/-- The host's position is one its rules can leave it in, with MODE m and REACT r: every word it will issue runs
(43_serial_host.md R188), and REACT is 0 whenever MODE is AwaitingDigitEntry, now and along the rest of the script
(R182, R187). -/
def scriptOk : Mode → BitVec 1 → List HostMicro → Bool
  | m, r, [] => entryDisabled m r
  | m, r, x :: rest =>
    entryDisabled m r && actRuns x.act && linkOk m x rest &&
      scriptOk (modeAfter x.andThen m) (reactAfter x.act r) rest

/-- TENS is a decimal digit and is held in AwaitingDigitEntry only (10_state.md R34). -/
def tensOk (m : Mode) : Option (BitVec 4) → Bool
  | none => true
  | some d => decide (d.toNat ≤ 9 ∧ m = .awaitingDigitEntry)

/-- The serial host issues no list of words; a port-list host has no serial mode and no script
(42_port_interface.md R140). -/
def hostOk (s : State) : Bool :=
  match s.cfg.host with
  | .serial => s.portq.isEmpty
  | .portList _ => s.hostPos.isEmpty && decide (s.mode = .idle)

/-- The invariant: the parameters are in their bounds (00_scope.md R9), NTRIG fits its width (10_state.md R26), the
synchronizer has its stages (R31), PDS and TENS hold what R34 lets them hold, and the host is where its rules put it. -/
abbrev State.Inv (s : State) : Prop :=
  s.cfg.wf ∧ s.ntrig < 2 ^ s.cfg.wCnt ∧ s.sync.length = s.cfg.syncStages ∧ s.pds ≠ some 0#3 ∧
    tensOk s.mode s.tens = true ∧ scriptOk s.mode s.react s.hostPos = true ∧ hostOk s = true

/-- TRIG then SERVICE, as TRIGN 1 has it (30_encoding.md R83). -/
def pulse (s : State) : Result :=
  match exec .trig s with
  | .next t => exec .service t
  | .fault f => .fault f
  | .refused r => .refused r

/-- TRIGN k. -/
def pulses : Nat → State → Result
  | 0, s => .next s
  | k + 1, s =>
    match pulses k s with
    | .next t => pulse t
    | .fault f => .fault f
    | .refused r => .refused r

/-- How many pulses it takes from count k to reach threshold m, with a W-bit count: the least j >= 1 with
k + j = m modulo 2^W (41_trigger_counter.md R126, R127, R130). -/
def pulsesToAdvance (wCnt k m : Nat) : Nat := (m + 2 ^ wCnt - k - 1) % 2 ^ wCnt + 1

/-- A run is over: no stimulus is left and no agent has an enabled step (70_reset_and_hazards.md R255). -/
def runOver (s : State) : Bool := s.sched.isEmpty && !serviceEnabled s && hostWaits s

/-- The number that a string of ASCII digits spells. -/
def decValue (bs : List Byte) : Nat := bs.foldl (fun a b => 10 * a + (b.toNat - 0x30)) 0

end Sys2Proof.Machine
end

