-- ==== Sys2Proof/Certificates/Slice0/Obligations.lean ====
section
/-! DEFINITION. The statements about the machine, each from the numbered rules of spec/. -/

open Sys2Proof Sys2Proof.Machine

/-! Encoding -/

/-- Decoding the encoding of a well-formed instruction of any row gives it back, with every operand
(30_encoding.md R72, R73, R75 to R77, R79). -/
def Obligations.DecodeOfEncodeIsIdentity : Prop :=
  ∀ i : Instr, i.wellFormed = true → decode (encode i) = .ok i

/-- A word or byte that decodes is the encoding of what it decodes to, so no two of them stand for one instruction. -/
def Obligations.DecodedWordReencodes : Prop :=
  ∀ (e : Encoding) (i : Instr), decode e = .ok i → encode i = e

/-- Words written out from the tables of 30_encoding.md R73, R75 and R77 decode to their rows. -/
def Obligations.TableWordsDecodeToTheirRows : Prop :=
  decodePort 0b0001000000000101#16 = .ok (.apply 5) ∧ decodePort 0b0010000000000110#16 = .ok (.wrstate 6) ∧
    decodePort 0b0011000000101010#16 = .ok (.wrnepp 42) ∧ decodePort 0b0100000000000001#16 = .ok (.wrreact 1#1) ∧
    decodePort 0b0101000000000000#16 = .ok (.wrline 0) ∧ decodePort 0b1000000000000000#16 = .ok .rdstate ∧
    decodePort 0b1110000000000000#16 = .ok .rdpend ∧ decodePort 0b0110000100100011#16 = .ok (.reservedOp6 0x123) ∧
    decodeIdle 0b00110111#8 = .stageState 7 ∧ decodeIdle 0b00110000#8 = .stageNop 0x30 ∧ decodeIdle 0b00001101#8 = .confirm ∧
    decodeIdle 0b01101001#8 = .stageToggle ∧ decodeIdle 0b01101110#8 = .stageNepp ∧
    decodeEntry 0b00111001#8 = .entryDigit 9 ∧ decodeEntry 0b00001101#8 = .entryIgnore 0x0D

/-- 30_encoding.md R74: the three conditions in their order, the first that holds naming the fault; a word that is not
reserved runs. -/
def Obligations.ReservedPortWordsFaultInOrder : Prop :=
  ∀ (w : PortWord) (s : State),
    (HasReservedOp w → issuePort w s = .fault (.reservedOp w)) ∧
    (¬ HasReservedOp w → HasReservedBits w → issuePort w s = .fault (.reservedBits w)) ∧
    (¬ HasReservedOp w → ¬ HasReservedBits w → HasStateOutOfRange w → issuePort w s = .fault (.stateRange w)) ∧
    (¬ HasReservedOp w → ¬ HasReservedBits w → ¬ HasStateOutOfRange w → ∃ t, issuePort w s = .next t)

/-- 60_exceptions.md R221: a fault records the word, its code is the lowest whose condition holds, and SERVICE, TRIG,
RESET and every serial byte, in either mode, answer a next state. -/
def Obligations.FaultCodesAreTheLowestThatHold : Prop :=
  (∀ (w : PortWord) (s : State) (f : Fault), issuePort w s = .fault f →
    faultWord f = w ∧ (HasReservedOp w ∨ HasReservedBits w ∨ HasStateOutOfRange w) ∧
    (faultCode f = 1 ↔ HasReservedOp w) ∧ (faultCode f = 2 ↔ ¬ HasReservedOp w ∧ HasReservedBits w) ∧
    (faultCode f = 3 ↔ ¬ HasReservedOp w ∧ ¬ HasReservedBits w ∧ HasStateOutOfRange w)) ∧
  (∀ s : State, (∃ t, exec .service s = .next t) ∧ (∃ t, exec .trig s = .next t) ∧ (∃ t, exec .reset s = .next t)) ∧
  (∀ (m : Mode) (b : Byte) (s : State), ∃ t, exec (decodeSerial m b) s = .next t)

/-- The four reserved rows stop with RESERVED_OP and their word, in every state (30_encoding.md R74). -/
def Obligations.ReservedRowsStopWithReservedOp : Prop :=
  ∀ (x : BitVec 12) (s : State),
    exec (.reservedOp0 x) s = .fault (.reservedOp (0x0#4 ++ x)) ∧
    exec (.reservedOp6 x) s = .fault (.reservedOp (0x6#4 ++ x)) ∧
    exec (.reservedOp7 x) s = .fault (.reservedOp (0x7#4 ++ x)) ∧
    exec (.reservedOpF x) s = .fault (.reservedOp (0xF#4 ++ x))

/-- 30_encoding.md R75 and R76: the classes of a byte in Idle, in order, with their operands. -/
def Obligations.IdleBytesAreClassedInOrder : Prop :=
  ∀ b : Byte,
    (0x31 ≤ b.toNat → b.toNat ≤ 0x37 →
      ∃ d : BitVec 3, decodeSerial .idle b = .stageState d ∧ d.toNat = b.toNat - 0x30 ∧ d ≠ 0#3) ∧
    (b = 0x0D#8 → decodeSerial .idle b = .confirm) ∧ (b = 0x69#8 → decodeSerial .idle b = .stageToggle) ∧
    (b = 0x6E#8 → decodeSerial .idle b = .stageNepp) ∧
    (¬ (0x31 ≤ b.toNat ∧ b.toNat ≤ 0x37) → b ≠ 0x0D#8 → b ≠ 0x69#8 → b ≠ 0x6E#8 → decodeSerial .idle b = .stageNop b)

/-- 30_encoding.md R77: the classes of a byte in AwaitingDigitEntry, with their operands. -/
def Obligations.EntryBytesAreClassed : Prop :=
  ∀ b : Byte,
    (0x30 ≤ b.toNat → b.toNat ≤ 0x39 →
      ∃ d : BitVec 4, decodeSerial .awaitingDigitEntry b = .entryDigit d ∧ d.toNat = b.toNat - 0x30 ∧ d.toNat ≤ 9) ∧
    (¬ (0x30 ≤ b.toNat ∧ b.toNat ≤ 0x39) → decodeSerial .awaitingDigitEntry b = .entryIgnore b)

/-! The output decoder and the port -/

/-- 40_output_decoder.md R100: the bits of decode(s) are those of c = s - 1, and the table. -/
def Obligations.DecoderDrivesTheSwitchPairs : Prop :=
  (∀ s : BitVec 3, s ≠ 0#3 →
    (pinsOf s).getLsbD 0 = (s.toNat - 1).testBit 0 ∧ (pinsOf s).getLsbD 1 = (s.toNat - 1).testBit 1 ∧
    (pinsOf s).getLsbD 2 = (s.toNat - 1).testBit 1 ∧ (pinsOf s).getLsbD 3 = (s.toNat - 1).testBit 2 ∧
    (pinsOf s).getLsbD 4 = (s.toNat - 1).testBit 2) ∧
  pinsOf 1#3 = 0x00#5 ∧ pinsOf 2#3 = 0x01#5 ∧ pinsOf 3#3 = 0x06#5 ∧ pinsOf 4#3 = 0x07#5 ∧ pinsOf 5#3 = 0x18#5 ∧ pinsOf 6#3 = 0x19#5 ∧
    pinsOf 7#3 = 0x1E#5

/-- APPLY s writes PINS <- decode(s) and nothing else; APPLY 0 stops with STATE_RANGE (40_output_decoder.md R101). -/
def Obligations.ApplyWritesPinsOnly : Prop :=
  ∀ s : State,
    (∀ d : BitVec 3, d ≠ 0#3 → exec (.apply d) s = .next { s with pins := pinsOf d }) ∧
    exec (.apply 0#3) s = .fault (.stateRange 0x1000#16)

/-- 40_output_decoder.md R103: a second APPLY of the same s leaves PINS, and all else, as the first left it. -/
def Obligations.ApplyIsIdempotent : Prop :=
  ∀ (d : BitVec 3) (s : State), d ≠ 0#3 →
    ∃ t u, exec (.apply d) s = .next t ∧ exec (.apply d) t = .next u ∧ u.pins = t.pins ∧ u = t

/-- WRSTATE s writes STATE and nothing else, PINS and NTRIG included; WRSTATE 0 stops with STATE_RANGE
(42_port_interface.md R142). -/
def Obligations.WrstateWritesStateOnly : Prop :=
  ∀ s : State,
    (∀ d : BitVec 3, d ≠ 0#3 → exec (.wrstate d) s = .next { s with state := d }) ∧
    exec (.wrstate 0#3) s = .fault (.stateRange 0x2000#16)

/-- WRNEPP, WRREACT and WRLINE each write the register they name and nothing else (42_port_interface.md R143 to R145). -/
def Obligations.FlagAndThresholdWritesTouchOneRegister : Prop :=
  ∀ s : State,
    (∀ n : BitVec 8, exec (.wrnepp n) s = .next { s with nepp := n }) ∧
    (∀ b : BitVec 1, exec (.wrreact b) s = .next { s with react := b }) ∧
    (∀ b : BitVec 1, exec (.wrline b) s = .next { s with line := b })

/-- Each read returns its register, zero-extended, and changes no register, flag or queue (42_port_interface.md R146
to R152). `portData` is the model's place for the value returned (log entry 15). -/
def Obligations.ReadsReturnTheirRegister : Prop :=
  ∀ s : State,
    exec .rdstate s = .next { s with portData := s.state.toNat } ∧
    exec .rdnepp s = .next { s with portData := s.nepp.toNat } ∧
    exec .rdcount s = .next { s with portData := s.ntrig } ∧
    exec .rdreact s = .next { s with portData := s.react.toNat } ∧
    exec .rdline s = .next { s with portData := s.line.toNat } ∧
    exec .rdpins s = .next { s with portData := s.pins.toNat } ∧
    exec .rdpend s = .next { s with portData := s.pend.toNat }

/-- 42_port_interface.md R153: no PORT word writes NTRIG, PEND or the input stage, nor PINS but with a decode(s); and
of all instructions only SERVICE in COUNTER mode and RESET restart the count. -/
def Obligations.PortCannotWriteCountOrLatch : Prop :=
  (∀ (w : PortWord) (s t : State), issuePort w s = .next t →
    t.ntrig = s.ntrig ∧ t.pend = s.pend ∧ t.sync = s.sync ∧ t.edgePrev = s.edgePrev ∧
    (t.pins = s.pins ∨ ∃ d : BitVec 3, d ≠ 0#3 ∧ decodePort w = .ok (.apply d) ∧ t.pins = pinsOf d)) ∧
  (∀ (i : Instr) (s t : State), exec i s = .next t → i ≠ .reset →
    t.ntrig = s.ntrig ∨
    (i = .service ∧ (t.ntrig = (s.ntrig + 1) % 2 ^ s.cfg.wCnt ∨ (s.cfg.threshMode = .counter ∧ t.ntrig = 0))))

/-! The trigger latch and the input stage -/

/-- TRIG sets PEND when REACT = 1 or LATCH_WHILE_DISABLED, and changes nothing else (41_trigger_counter.md R111). -/
def Obligations.TrigSetsPendWhenLatched : Prop :=
  ∀ s : State,
    (s.react = 1#1 ∨ s.cfg.latchWhileDisabled = true → exec .trig s = .next { s with pend := 1#1 }) ∧
    (s.react ≠ 1#1 → s.cfg.latchWhileDisabled = false → exec .trig s = .next s)

/-- A TRIG while PEND = 1 leaves the state unchanged, and two TRIG before a SERVICE count one pulse
(41_trigger_counter.md R112). -/
def Obligations.TrigWhilePendingIsMerged : Prop :=
  ∀ s : State, (s.pend = 1#1 → exec .trig s = .next s) ∧
    (s.react = 1#1 → ∃ t u, exec .trig s = .next t ∧ exec .trig t = .next t ∧ exec .service t = .next u ∧
      pulse s = .next u)

/-- 41_trigger_counter.md R114: while REACT = 0 an edge is latched when LATCH_WHILE_DISABLED is true, any number of
them as one, and is serviced after WRREACT 1; with false it is lost. That a SERVICE in between stands still is the
model's choice (log entry 7). -/
def Obligations.EdgesWhileDisabledFollowTheParameter : Prop :=
  ∀ s : State, s.react = 0#1 →
    (s.cfg.latchWhileDisabled = false → exec .trig s = .next s) ∧
    (s.cfg.latchWhileDisabled = true → ∃ t u, exec .trig s = .next t ∧ t = { s with pend := 1#1 } ∧
      exec .trig t = .next t ∧ exec .service t = .next t ∧
      exec (.wrreact 1#1) t = .next u ∧ serviceEnabled u = true)

/-- A SAMPLE shifts the chain by one, takes TRIG_IN in, keeps the last stage in EDGE_PREV, and is a TRIG exactly on a
rise of the last stage (41_trigger_counter.md R110; that SAMPLE is a step of the model is its choice, log entry 12). -/
def Obligations.SampleShiftsAndDetectsARise : Prop :=
  ∀ s : State, s.sync ≠ [] → ∃ t, runEvent .sample s = .next t ∧ t.sync.length = s.sync.length ∧
    t.sync.head? = some s.trigIn ∧ (∀ i, i + 1 < s.sync.length → t.sync[i + 1]? = s.sync[i]?) ∧
    t.sync.getLast? = some t.edgePrev ∧
    (t.edgePrev = true ∧ s.edgePrev = false →
      exec .trig { s with sync := t.sync, edgePrev := t.edgePrev } = .next t) ∧
    (¬ (t.edgePrev = true ∧ s.edgePrev = false) → t = { s with sync := t.sync, edgePrev := t.edgePrev })

/-! SERVICE -/

/-- While PEND = 0 or REACT = 0 a SERVICE changes nothing (41_trigger_counter.md R115, 60_exceptions.md R222; that the
step then stands still is the model's choice, log entry 7). -/
def Obligations.ServiceIsHeldUnlessEnabled : Prop :=
  ∀ s : State, (s.pend ≠ 1#1 ∨ s.react ≠ 1#1) → exec .service s = .next s

/-- A SERVICE below the threshold counts, emits the readout and clears PEND, and changes nothing else
(41_trigger_counter.md R116, R117, R123, R124). -/
def Obligations.ServiceBelowThresholdOnlyCounts : Prop :=
  ∀ s : State, s.pend = 1#1 → s.react = 1#1 → ¬ NextServiceAdvances s →
    exec .service s = .next { s with
      ntrig := (s.ntrig + 1) % 2 ^ s.cfg.wCnt, pend := 0#1,
      txq := s.txq ++ msgReadout ((s.ntrig + 1) % 2 ^ s.cfg.wCnt) }

/-- A SERVICE that reaches the threshold in COUNTER mode (41_trigger_counter.md R116 to R124): the whole next state. -/
def Obligations.ServiceAdvancesInCounterMode : Prop :=
  ∀ s : State, s.pend = 1#1 → s.react = 1#1 → NextServiceAdvances s → s.cfg.threshMode = .counter →
    exec .service s = .next { s with
      ntrig := 0, state := succState s.state, pins := pinsOf (succState s.state), line := 0#1, pend := 0#1,
      txq := s.txq ++ (if s.line = 1#1 then [0x0A#8] else []) ++ msgStatus (succState s.state).toNat ++ msgReadout 0 }

/-- A SERVICE that reaches the threshold in LEGACY mode (41_trigger_counter.md R116 to R124): the whole next state. -/
def Obligations.ServiceAdvancesInLegacyMode : Prop :=
  ∀ s : State, s.pend = 1#1 → s.react = 1#1 → NextServiceAdvances s → s.cfg.threshMode = .legacy →
    exec .service s = .next { s with
      ntrig := s.nepp.toNat, nepp := 0#8, state := succState s.state, pins := pinsOf (succState s.state), line := 0#1,
      pend := 0#1,
      txq := s.txq ++ (if s.line = 1#1 then [0x0A#8] else []) ++ msgStatus (succState s.state).toNat ++
        msgReadout s.nepp.toNat }

/-- 41_trigger_counter.md R120: the cycle of states. -/
def Obligations.SuccessorCyclesThroughSeven : Prop :=
  (∀ s : BitVec 3, (s.toNat + 1 ≤ 7 → (succState s).toNat = s.toNat + 1) ∧ (¬ s.toNat + 1 ≤ 7 → succState s = 1) ∧
    1 ≤ (succState s).toNat ∧ (succState s).toNat ≤ 7) ∧
  succState 0#3 = 1#3 ∧ succState 1#3 = 2#3 ∧ succState 6#3 = 7#3 ∧ succState 7#3 = 1#3

/-- 41_trigger_counter.md R124: SERVICE ends with PEND = 0 and itself not enabled, and only a TRIG makes PEND 1 again:
one the environment gives, or one that a SAMPLE performs on a rise of the last stage of the synchronizer (EDGE_PREV was
0 and is 1). That SAMPLE is a step of the model is its choice, log entry 12. -/
def Obligations.ServiceClearsPendUntilTheNextTrig : Prop :=
  (∀ s : State, serviceEnabled s = true → ∃ t, exec .service s = .next t ∧ t.pend = 0#1 ∧ serviceEnabled t = false) ∧
  (∀ s t : State, step s = .next t → s.pend = 0#1 → t.pend ≠ 0#1 →
    s.sched.head? = some .trig ∨ (s.sched.head? = some .sample ∧ s.edgePrev = false ∧ t.edgePrev = true))

/-- 41_trigger_counter.md R121: after a SERVICE that advances, PINS = decode(STATE), with the new STATE. -/
def Obligations.AdvanceDrivesPinsOfTheNewState : Prop :=
  ∀ s : State, serviceEnabled s = true → NextServiceAdvances s →
    ∃ t, exec .service s = .next t ∧ t.state = succState s.state ∧ t.pins = pinsOf t.state

/-- How many pulses the next advance takes from any count and any threshold: none before it changes STATE or PINS, and
it does (41_trigger_counter.md R117 to R121). -/
def Obligations.NextAdvanceComesAfterTheDistance : Prop :=
  ∀ s : State, s.cfg.wf → s.ntrig < 2 ^ s.cfg.wCnt → s.react = 1#1 →
    (∀ j, j < pulsesToAdvance s.cfg.wCnt s.ntrig s.nepp.toNat →
      ∃ t, pulses j s = .next t ∧ t.state = s.state ∧ t.pins = s.pins ∧ t.nepp = s.nepp ∧ t.line = s.line ∧
        t.ntrig = (s.ntrig + j) % 2 ^ s.cfg.wCnt) ∧
    (∃ t, pulses (pulsesToAdvance s.cfg.wCnt s.ntrig s.nepp.toNat) s = .next t ∧ t.state = succState s.state ∧
      t.pins = pinsOf (succState s.state) ∧ t.pend = 0#1 ∧
      (s.cfg.threshMode = .counter → t.ntrig = 0 ∧ t.nepp = s.nepp) ∧
      (s.cfg.threshMode = .legacy → t.ntrig = s.nepp.toNat ∧ t.nepp = 0#8))

/-- 41_trigger_counter.md R130: from NTRIG = 0 with NEPP = m >= 1, the m-th service is the first that advances and
leaves NTRIG = 0 in COUNTER mode; the same for the first advance in LEGACY mode; with NEPP = 1 every one does. -/
def Obligations.SteadyStateAdvancesEveryThresholdPulses : Prop :=
  ∀ s : State, s.cfg.wf → s.react = 1#1 → s.ntrig = 0 → 1 ≤ s.nepp.toNat →
    (∀ j, j < s.nepp.toNat → ∃ t, pulses j s = .next t ∧ t.state = s.state) ∧
    (∃ t, pulses s.nepp.toNat s = .next t ∧ t.state = succState s.state ∧
      (s.cfg.threshMode = .counter → t.ntrig = 0 ∧ t.nepp = s.nepp)) ∧
    (s.nepp = 1#8 → s.cfg.threshMode = .counter → ∀ j, ∃ t u, pulses j s = .next t ∧ pulse t = .next u ∧
      u.state = succState t.state ∧ u.ntrig = 0)

/-- 41_trigger_counter.md R127: WRNEPP m with m at or below the count k does not reset the count, and the next advance
comes after 2^W_CNT - k + m services. -/
def Obligations.ThresholdNotAboveCountWaitsForTheWrap : Prop :=
  ∀ (s : State) (m : BitVec 8), s.cfg.wf → s.ntrig < 2 ^ s.cfg.wCnt → s.react = 1#1 → m.toNat ≤ s.ntrig →
    ∃ u, exec (.wrnepp m) s = .next u ∧ u.ntrig = s.ntrig ∧
      (∀ j, j < 2 ^ s.cfg.wCnt - s.ntrig + m.toNat → ∃ t, pulses j u = .next t ∧ t.state = s.state) ∧
      (∃ t, pulses (2 ^ s.cfg.wCnt - s.ntrig + m.toNat) u = .next t ∧ t.state = succState s.state)

/-- 41_trigger_counter.md R126: NEPP = 0 in COUNTER mode: the next advance takes 2^W_CNT - k services, and after it
every advance takes 2^W_CNT. -/
def Obligations.ZeroThresholdAdvancesOncePerWrap : Prop :=
  ∀ s : State, s.cfg.wf → s.ntrig < 2 ^ s.cfg.wCnt → s.react = 1#1 → s.cfg.threshMode = .counter → s.nepp = 0#8 →
    (∀ j, j < 2 ^ s.cfg.wCnt - s.ntrig → ∃ t, pulses j s = .next t ∧ t.state = s.state) ∧
    (∃ t, pulses (2 ^ s.cfg.wCnt - s.ntrig) s = .next t ∧ t.state = succState s.state ∧ t.ntrig = 0 ∧ t.nepp = 0#8 ∧
      (∀ j, j < 2 ^ s.cfg.wCnt → ∃ u, pulses j t = .next u ∧ u.state = t.state) ∧
      (∃ u, pulses (2 ^ s.cfg.wCnt) t = .next u ∧ u.state = succState t.state ∧ u.ntrig = 0 ∧ u.nepp = 0#8))

/-- 41_trigger_counter.md R128: LEGACY mode after an advance: NEPP = 0 and NTRIG = m, the next advance after
2^W_CNT - m services, with NEPP = 0 from then on. -/
def Obligations.LegacyAdvanceStallsUntilTheWrap : Prop :=
  ∀ s : State, s.cfg.wf → s.react = 1#1 → s.pend = 1#1 → s.cfg.threshMode = .legacy → NextServiceAdvances s →
    ∃ t, exec .service s = .next t ∧ t.nepp = 0#8 ∧ t.ntrig = s.nepp.toNat ∧
      (∀ j, j < 2 ^ s.cfg.wCnt - s.nepp.toNat → ∃ u, pulses j t = .next u ∧ u.state = t.state ∧ u.nepp = 0#8) ∧
      (∃ u, pulses (2 ^ s.cfg.wCnt - s.nepp.toNat) t = .next u ∧ u.state = succState t.state ∧ u.nepp = 0#8)

/-! RESET and BOOT -/

/-- 70_reset_and_hazards.md R251: the values after RESET, from any state; the four unspecified elements are free
values and nothing is said of them. What RESET leaves of the environment is the model's choice (log entry 13). -/
def Obligations.ResetGivesTheTableValues : Prop :=
  ∀ s : State, ∃ t, exec .reset s = .next t ∧ t.nepp = 1#8 ∧ t.ntrig = 0 ∧ t.react = 1#1 ∧ t.pend = 0#1 ∧ t.line = 0#1 ∧
    t.mode = .idle ∧ t.pds = none ∧ t.pi = none ∧ t.tens = none ∧ t.rxq = [] ∧ t.txq = [] ∧
    (s.cfg.host = .serial → t.hostPos = bootScript ∧ t.portq = []) ∧
    t.cfg = s.cfg ∧ t.trigIn = s.trigIn ∧ t.sched = s.sched

/-- The state right after reset has the values that 70_reset_and_hazards.md R251 gives, and the host is at BOOT. The
elements R251 leaves unspecified are not stated. -/
def Obligations.ResetStateHasTheTableValues : Prop :=
  State.reset.nepp = 1#8 ∧ State.reset.ntrig = 0 ∧ State.reset.react = 1#1 ∧ State.reset.pend = 0#1 ∧ State.reset.line = 0#1 ∧
    State.reset.mode = .idle ∧ State.reset.pds = none ∧ State.reset.pi = none ∧ State.reset.tens = none ∧
    State.reset.rxq = [] ∧ State.reset.txq = [] ∧ State.reset.hostPos = bootScript

/-- BOOT, run with no other agent in between, prints the state once and changes nothing else, whatever LINE holds
(43_serial_host.md R172; the value read stands in portData, log entry 15). -/
def Obligations.BootPrintsTheStateOnce : Prop :=
  ∀ s : State, s.hostPos = bootScript →
    finishScript 64 s = .next { s with
      hostPos := [], portData := s.state.toNat, txq := s.txq ++ msgStatus s.state.toNat }

/-! The serial host -/

/-- STAGE_STATE d stages d; then, with no other agent in between, it echoes a backspace and the digit and sets LINE;
nothing else changes (43_serial_host.md R174; the script as the host's position is the model's form, log entry 8). -/
def Obligations.StageStateStagesAndEchoes : Prop :=
  ∀ (d : BitVec 3) (s : State),
    exec (.stageState d) s = .next { s with pds := some d, hostPos := stageStateScript d } ∧
    finishScript 64 { s with pds := some d, hostPos := stageStateScript d } =
      .next { s with
        pds := some d, hostPos := [], txq := s.txq ++ [0x08#8, BitVec.ofNat 8 (0x30 + d.toNat)], line := 1#1 }

/-- The letter branch clears PDS and echoes; 'i' and 'n' stage their instruction and every other byte leaves PI;
nothing else changes (43_serial_host.md R175 to R178). -/
def Obligations.LetterBytesClearTheDigitAndEcho : Prop :=
  ∀ s : State,
    (∃ t, exec .stageToggle s = .next t ∧ finishScript 64 t = .next { s with
      pds := none, pi := some .toggleTriggerReaction, hostPos := [], txq := s.txq ++ [0x69#8] }) ∧
    (∃ t, exec .stageNepp s = .next t ∧ finishScript 64 t = .next { s with
      pds := none, pi := some .setPulseThreshold, hostPos := [], txq := s.txq ++ [0x6E#8] }) ∧
    (∀ c : Byte, ∃ t, exec (.stageNop c) s = .next t ∧ finishScript 64 t = .next { s with
      pds := none, hostPos := [], txq := s.txq ++ [c] })

/-- CONFIRM with a staged digit d: with no other agent in between, PINS <- decode(d), STATE <- d, PDS <- none, an open
line is closed and the message M2 printed; PI stays (43_serial_host.md R179, R180; the value read, log entry 15). -/
def Obligations.ConfirmSetsTheStagedState : Prop :=
  ∀ (d : BitVec 3) (s : State), d ≠ 0#3 → s.pds = some d →
    ∃ t, exec .confirm s = .next t ∧ t = { s with hostPos := confirmStateScript d } ∧
      finishScript 64 t = .next { s with
        pins := pinsOf d, state := d, pds := none, line := 0#1, portData := d.toNat, hostPos := [],
        txq := s.txq ++ (if s.line = 1#1 then [0x0A#8] else []) ++ msgStateSet d.toNat }

/-- CONFIRM with a staged toggle flips REACT, prints the message of the new value and clears PI
(43_serial_host.md R179, R181; the value read, log entry 15). -/
def Obligations.ConfirmTogglesTheReaction : Prop :=
  ∀ s : State, s.pds = none → s.pi = some .toggleTriggerReaction →
    ∃ t, exec .confirm s = .next t ∧
      finishScript 64 t = .next { s with
        react := 1#1 - s.react, pi := none, portData := s.react.toNat, hostPos := [],
        txq := s.txq ++ (if s.react = 1#1 then msgReactOff else msgReactOn) }

/-- CONFIRM with a staged threshold entry disables the reaction, prints the prompt and enters AwaitingDigitEntry, with
PI still staged (43_serial_host.md R179, R182). -/
def Obligations.ConfirmStartsThresholdEntry : Prop :=
  ∀ s : State, s.pds = none → s.pi = some .setPulseThreshold →
    ∃ t, exec .confirm s = .next t ∧
      finishScript 64 t = .next { s with
        react := 0#1, tens := none, mode := .awaitingDigitEntry, hostPos := [], txq := s.txq ++ msgPrompt }

/-- 43_serial_host.md R183: CONFIRM with nothing staged leaves the state, and no micro-step follows it. -/
def Obligations.ConfirmWithNothingStagedDoesNothing : Prop :=
  ∀ s : State, s.pds = none → s.pi = none → s.hostPos = [] → exec .confirm s = .next s

/-- The first digit becomes TENS, with no echo (43_serial_host.md R184). -/
def Obligations.FirstEntryDigitIsTheTensDigit : Prop :=
  ∀ (d : BitVec 4) (s : State), s.tens = none → s.hostPos = [] →
    exec (.entryDigit d) s = .next { s with tens := some d }

/-- The second digit, with no other agent in between: NEPP <- 10*TENS + ones, the message M6, PI and TENS cleared,
REACT = 1 and Idle; NTRIG is not written (43_serial_host.md R185). -/
def Obligations.SecondEntryDigitSetsTheThreshold : Prop :=
  ∀ (t d : BitVec 4) (s : State), t.toNat ≤ 9 → d.toNat ≤ 9 → s.tens = some t →
    ∃ n : BitVec 8, n.toNat = 10 * t.toNat + d.toNat ∧ ∃ u, exec (.entryDigit d) s = .next u ∧
      finishScript 64 u = .next { s with
        nepp := n, txq := s.txq ++ msgNeppSet (10 * t.toNat + d.toNat), pi := none, react := 1#1, tens := none,
        mode := .idle, hostPos := [] }

/-- 43_serial_host.md R186: in AwaitingDigitEntry a byte that is no digit is consumed and nothing else changes. -/
def Obligations.EntryIgnoresOtherBytes : Prop :=
  ∀ (b : Byte) (bs : List Byte) (s : State), s.mode = .awaitingDigitEntry → s.hostPos = [] → s.portq = [] →
    s.cfg.host = .serial → s.rxq = b :: bs → ¬ (0x30 ≤ b.toNat ∧ b.toNat ≤ 0x39) →
    hostStep s = .next { s with rxq := bs } ∧ exec (.entryIgnore b) s = .next s

/-! A step -/

/-- A step runs what it decodes, and each entry of the schedule does what it brings. The next word of a port-list host
goes to the port, whichever word it is: one that decodes runs its instruction, and one that does not ends in its
fault (42_port_interface.md R140, R141, 30_encoding.md R74). The next byte of the serial host runs its class in the
host's mode (43_serial_host.md R173). TRIG, RESET and SVC run their rows; RX appends its byte to RXQ, a level is what
TRIG_IN becomes (10_state.md R36, R38), and nothing else changes but the schedule. HOSTRUN is a step of the host, after
which it is no longer in the schedule if the host waited. The schedule as a list is the model's form, log entry 5, and
its level and SAMPLE entries are the model's choice, log entry 12. -/
def Obligations.StepRunsTheDecodedInstruction : Prop :=
  ∀ (s : State) (rest : List Event),
    (∀ (w : PortWord) (ws : List PortWord), s.sched = .host :: rest → s.hostPos = [] → s.portq = w :: ws →
      step s = issuePort w { s with sched := rest, portq := ws } ∧
      (∀ i, decodePort w = .ok i → step s = exec i { s with sched := rest, portq := ws }) ∧
      (∀ e, decodePort w = .error e → step s = .fault (faultOf e))) ∧
    (∀ (b : Byte) (bs : List Byte), s.sched = .host :: rest → s.hostPos = [] → s.portq = [] → s.cfg.host = .serial →
      s.rxq = b :: bs → step s = exec (decodeSerial s.mode b) { s with sched := rest, rxq := bs }) ∧
    (s.sched = .trig :: rest → step s = exec .trig { s with sched := rest }) ∧
    (s.sched = .reset :: rest → step s = exec .reset { s with sched := rest }) ∧
    (s.sched = .svc :: rest → step s = exec .service { s with sched := rest }) ∧
    (∀ b, s.sched = .rx b :: rest → step s = .next { s with sched := rest, rxq := s.rxq ++ [b] }) ∧
    (∀ l, s.sched = .level l :: rest → step s = .next { s with sched := rest, trigIn := l }) ∧
    (s.sched = .sample :: rest → step s = runEvent .sample { s with sched := rest }) ∧
    (s.sched = .hostRun :: rest →
      (hostWaits s = true → step s = .next { s with sched := rest }) ∧ (hostWaits s = false → step s = hostStep s))

/-- A step of the host inside a script runs its next micro-step, and what the act leaves is what goes with it; a word at
the port that faults ends the run (20_memory.md R56, R57, 42_port_interface.md R141; the position as a list is the
model's form, log entry 8). -/
def Obligations.StepRunsTheNextMicroStep : Prop :=
  ∀ (s : State) (rest : List Event) (m : HostMicro) (ms : List HostMicro), s.sched = .host :: rest → s.hostPos = m :: ms →
    (∀ b, m.act = .tx b →
      step s = .next (applyThen m.andThen { s with sched := rest, hostPos := ms, txq := s.txq ++ [b] })) ∧
    (∀ (w : PortWord) (i : Instr) (t : State), m.act = .port w → decodePort w = .ok i →
      exec i { s with sched := rest, hostPos := ms } = .next t → step s = .next (applyThen m.andThen t)) ∧
    (∀ (w : PortWord) (f : Fault), m.act = .port w →
      issuePort w { s with sched := rest, hostPos := ms } = .fault f → step s = .fault f)

/-- With no schedule entry left, an enabled SERVICE or an enabled host steps, and a run that is over stands still
(20_memory.md R55, 70_reset_and_hazards.md R255; the choice when both are enabled is free, log entry 6; that a run that
is over stands still is the model's choice, log entry 7). -/
def Obligations.UnscheduledStepRunsAnEnabledAgent : Prop :=
  ∀ s : State, s.sched = [] →
    (serviceEnabled s = true → hostWaits s = true → step s = exec .service s) ∧
    (serviceEnabled s = false → step s = hostStep s) ∧
    (serviceEnabled s = true → hostWaits s = false →
      step s = exec .service { s with freeCount := s.freeCount + 1 } ∨
      step s = hostStep { s with freeCount := s.freeCount + 1 }) ∧
    (runOver s = true → step s = .next s)

/-! The whole machine -/

/-- The invariant holds right after reset. -/
def Obligations.ResetStateMeetsTheInvariant : Prop := State.reset.Inv

/-- Every RESET, with any draws, leads to a state that meets the invariant. -/
def Obligations.EveryResetMeetsTheInvariant : Prop :=
  ∀ s : State, s.cfg.wf → (∃ t, exec .reset s = .next t ∧ t.Inv) ∧
    ∀ d : ResetDraws, d.sync.length = s.cfg.syncStages → (resetWith d s).Inv

/-- Every step keeps the invariant: NTRIG in its width, the synchronizer's length, PDS and TENS in their ranges, every
word the host will issue one that runs, and REACT = 0 in AwaitingDigitEntry. -/
def Obligations.StepKeepsTheInvariant : Prop :=
  ∀ s t : State, s.Inv → step s = .next t → t.Inv

/-- 43_serial_host.md R188: with the serial host no step faults or is refused, in every state that meets the
invariant; and the next state meets it again. -/
def Obligations.SerialHostNeverStops : Prop :=
  ∀ s : State, s.Inv → s.cfg.host = .serial → ∃ t, step s = .next t ∧ t.Inv ∧ t.cfg.host = .serial

/-- 10_state.md R24: WRSTATE and an advance leave STATE in 1..7, and from then on every step but a RESET does. -/
def Obligations.StateStaysInOneToSeven : Prop :=
  (∀ (d : BitVec 3) (s t : State), exec (.wrstate d) s = .next t → 1 ≤ t.state.toNat ∧ t.state.toNat ≤ 7) ∧
  (∀ s t : State, serviceEnabled s = true → NextServiceAdvances s → exec .service s = .next t →
    1 ≤ t.state.toNat ∧ t.state.toNat ≤ 7) ∧
  (∀ s t : State, 1 ≤ s.state.toNat → NotReset s → step s = .next t → 1 ≤ t.state.toNat ∧ t.state.toNat ≤ 7)

/-- 40_output_decoder.md R104 and R105: a step that is no RESET leaves PINS or gives it a decode(d), d in 1..7, so both
members of each pair agree and all five pins are never asserted together. -/
def Obligations.PinsAreNeverAPartialPair : Prop :=
  ∀ s t : State, NotReset s → step s = .next t →
    (t.pins = s.pins ∨ ((∃ d : BitVec 3, d ≠ 0#3 ∧ t.pins = pinsOf d) ∧ PairedPins t.pins ∧ t.pins ≠ 0x1F#5)) ∧
    (PairedPins s.pins → PairedPins t.pins)

/-- No step changes the parameters (10_state.md R20: configuration is not state; that they ride in State is the model's
form, log entry 3). -/
def Obligations.NoStepChangesTheParameters : Prop :=
  ∀ s t : State, step s = .next t → t.cfg = s.cfg

/-- While REACT = 0 no step but a RESET changes NTRIG, and a trigger, a sample or a scheduled SERVICE changes neither
STATE, PINS, NTRIG nor TXQ (10_state.md R27, 20_memory.md R59; a SERVICE that is held stands still, log entry 7). -/
def Obligations.NothingIsCountedWhileDisabled : Prop :=
  ∀ s t : State, s.react = 0#1 → NotReset s → step s = .next t →
    t.ntrig = s.ntrig ∧
    (s.sched.head? = some .trig ∨ s.sched.head? = some .sample ∨ s.sched.head? = some .svc →
      t.state = s.state ∧ t.pins = s.pins ∧ t.txq = s.txq ∧ t.react = 0#1)

/-- Only a step of the host, or RESET, writes REACT, NEPP in COUNTER mode, or the host's private state (10_state.md
R25, R27, R34); and no step but a level entry writes TRIG_IN, which the environment drives (R38; that RESET leaves it is
the model's choice, log entry 13, and the level entry is log entry 12). -/
def Obligations.OnlyTheHostWritesItsRegisters : Prop :=
  (∀ s t : State, step s = .next t → s.sched.head? ≠ none → s.sched.head? ≠ some .host →
    s.sched.head? ≠ some .hostRun → NotReset s →
    t.react = s.react ∧ (s.cfg.threshMode = .counter → t.nepp = s.nepp) ∧ t.mode = s.mode ∧ t.pds = s.pds ∧
      t.pi = s.pi ∧ t.tens = s.tens ∧ t.hostPos = s.hostPos ∧ t.portq = s.portq ∧ t.portData = s.portData) ∧
  (∀ s t : State, step s = .next t → (∀ l, s.sched.head? ≠ some (.level l)) → t.trigIn = s.trigIn)

/-- Transmission only appends: a step that is no RESET keeps every byte of TXQ in its place, and a host micro-step
appends at most one (10_state.md R37, 20_memory.md R56). -/
def Obligations.TransmitQueueOnlyGrows : Prop :=
  (∀ s t : State, NotReset s → step s = .next t → ∃ bs, t.txq = s.txq ++ bs) ∧
  (∀ s t : State, hostStep s = .next t → t.txq = s.txq ∨ ∃ b, t.txq = s.txq ++ [b])

/-- RXQ is first in, first out, and no byte is lost: the step of an RX entry appends its byte at the end; every other
step but a RESET leaves RXQ, or is a step of the serial host between bytes, which takes the head and runs what it decodes
to (10_state.md R36, 43_serial_host.md R171, R173). `sc` and `n` are the schedule and the counter of free values that the
step leaves (log entries 5 and 6). -/
def Obligations.ReceiveQueueIsFirstInFirstOut : Prop :=
  ∀ s t : State, NotReset s → step s = .next t →
    (∀ b, s.sched.head? = some (.rx b) → t.rxq = s.rxq ++ [b]) ∧
    ((∀ b, s.sched.head? ≠ some (.rx b)) →
      t.rxq = s.rxq ∨
      ((s.sched.head? = some .host ∨ s.sched.head? = some .hostRun ∨ s.sched = []) ∧ s.hostPos = [] ∧ s.portq = [] ∧
        s.cfg.host = .serial ∧ ∃ b sc n, s.rxq = b :: t.rxq ∧
          exec (decodeSerial s.mode b) { s with rxq := t.rxq, sched := sc, freeCount := n } = .next t))

/-- AwaitingDigitEntry has no timeout and no cancellation: a step stays in it with REACT = 0, or is the last
micro-step of the second digit, WRREACT 1, which returns to Idle (43_serial_host.md R185, R187). -/
def Obligations.EntryEndsOnlyWithItsSecondDigit : Prop :=
  ∀ s t : State, s.Inv → s.mode = .awaitingDigitEntry → NotReset s → step s = .next t →
    s.react = 0#1 ∧
    ((t.mode = .awaitingDigitEntry ∧ t.react = 0#1) ∨
      (t.mode = .idle ∧ t.react = 1#1 ∧ t.tens = none ∧
        ∃ rest, s.hostPos = { act := .port 0x4001#16, andThen := .leaveEntry } :: rest))

/-- The set-state race: a SERVICE that advances between the host's APPLY d and its WRSTATE d leaves STATE = d and the
pins of the advanced state (70_reset_and_hazards.md R257). -/
def Obligations.ServiceBetweenApplyAndWrstateLeavesItsPins : Prop :=
  ∀ (d : BitVec 3) (s : State) (rest : List HostMicro), d ≠ 0#3 → serviceEnabled s = true → NextServiceAdvances s →
    s.hostPos = { act := .port (portOf (.wrstate d)), andThen := .clearPds } :: rest →
    ∃ t u, exec .service s = .next t ∧ hostStep t = .next u ∧ u.state = d ∧ u.pins = pinsOf (succState s.state) ∧
      u.pds = none

/-- dec(v) is the decimal spelling: digits only, at least one, no leading zero but for 0 itself, and it spells v
(00_scope.md R10). -/
def Obligations.DecimalSpellingReadsBack : Prop :=
  ∀ n : Nat, dec n ≠ [] ∧ (∀ b ∈ dec n, 0x30 ≤ b.toNat ∧ b.toNat ≤ 0x39) ∧ decValue (dec n) = n ∧
    ((dec n).head? = some 0x30#8 → dec n = [0x30#8])
end

