-- ==== Sys2Proof/Laws/Decode.lean ====
section
/-! SUPPORT. The fields of a PORT word, and what the decoder answers. -/

namespace Sys2Proof
/-- OP of a port word. -/
@[simp] theorem op_mkPort (o : BitVec 4) (d : BitVec 8) : PortWord.op (mkPort o d) = o := by
  apply BitVec.eq_of_getLsbD_eq; intro i hi
  simp only [PortWord.op, mkPort, BitVec.getLsbD_extractLsb', BitVec.getLsbD_append]
  have h8 : ¬ (12 + i < 8) := by omega
  have h4 : ¬ (12 + i - 8 < 4) := by omega
  have e : 12 + i - 8 - 4 = i := by omega
  simp [hi, h8, h4, e]

/-- RSV of a port word is 0. -/
@[simp] theorem rsv_mkPort (o : BitVec 4) (d : BitVec 8) : PortWord.rsv (mkPort o d) = 0#4 := by
  apply BitVec.eq_of_getLsbD_eq; intro i hi
  simp only [PortWord.rsv, mkPort, BitVec.getLsbD_extractLsb', BitVec.getLsbD_append]
  simp [hi]

/-- DATA of a port word. -/
@[simp] theorem data_mkPort (o : BitVec 4) (d : BitVec 8) : PortWord.data (mkPort o d) = d := by
  apply BitVec.eq_of_getLsbD_eq; intro i hi
  simp only [PortWord.data, mkPort, BitVec.getLsbD_extractLsb', BitVec.getLsbD_append]
  simp [hi]

/-- OP of a reserved word. -/
@[simp] theorem op_mkReserved (o : BitVec 4) (x : BitVec 12) : PortWord.op (mkReserved o x) = o := by
  apply BitVec.eq_of_getLsbD_eq; intro i hi
  simp only [PortWord.op, mkReserved, BitVec.getLsbD_extractLsb', BitVec.getLsbD_append]
  simp [hi]

/-- The bits below OP of a reserved word. -/
@[simp] theorem low_mkReserved (o : BitVec 4) (x : BitVec 12) : (mkReserved o x).extractLsb' 0 12 = x := by
  apply BitVec.eq_of_getLsbD_eq; intro i hi
  simp only [mkReserved, BitVec.getLsbD_extractLsb', BitVec.getLsbD_append]
  simp [hi]

/-- A word with RSV = 0 is made of its OP and DATA. -/
theorem mkPort_fields (w : PortWord) (h : PortWord.rsv w = 0#4) : mkPort (PortWord.op w) (PortWord.data w) = w := by
  apply BitVec.eq_of_getLsbD_eq; intro i hi
  have hr : ∀ j, j < 4 → w.getLsbD (8 + j) = false := by
    intro j hj
    have := congrArg (fun v => v.getLsbD j) h
    simpa [PortWord.rsv, BitVec.getLsbD_extractLsb', hj] using this
  simp only [PortWord.op, PortWord.data, mkPort, BitVec.getLsbD_extractLsb', BitVec.getLsbD_append]
  by_cases h8 : i < 8
  · simp [h8]
  · by_cases h12 : i < 12
    · have := hr (i - 8) (by omega)
      rw [show 8 + (i - 8) = i by omega] at this
      simp [h8, this]; intro; omega
    · have e1 : 12 + (i - 12) = i := by omega
      have : ¬ (i - 8 < 4) := by omega
      simp [h8, this, Nat.sub_sub, e1]; intro; omega

/-- A word is made of its OP and the bits below it. -/
theorem mkReserved_fields (w : PortWord) : mkReserved (PortWord.op w) (w.extractLsb' 0 12) = w := by
  apply BitVec.eq_of_getLsbD_eq; intro i hi
  simp only [PortWord.op, mkReserved, BitVec.getLsbD_extractLsb', BitVec.getLsbD_append]
  by_cases h12 : i < 12
  · simp [h12]
  · have e1 : 12 + (i - 12) = i := by omega
    simp [h12, e1]; intro; omega

/-- A state operand leaves DATA[7:3] 0. -/
theorem stateData_pad (d : BitVec 3) : (stateData d).extractLsb' 3 5 = 0#5 := by revert d; decide

/-- A state operand reads back. -/
theorem stateData_val (d : BitVec 3) : (stateData d).extractLsb' 0 3 = d := by revert d; decide

/-- A flag operand leaves DATA[7:1] 0. -/
theorem bitData_pad (d : BitVec 1) : (bitData d).extractLsb' 1 7 = 0#7 := by revert d; decide

/-- A flag operand reads back. -/
theorem bitData_val (d : BitVec 1) : (bitData d).extractLsb' 0 1 = d := by revert d; decide

/-- DATA with DATA[7:3] = 0 is a state operand. -/
theorem stateData_of_pad (v : BitVec 8) : v.extractLsb' 3 5 = 0#5 → stateData (v.extractLsb' 0 3) = v := by revert v; decide

/-- DATA with DATA[7:1] = 0 is a flag operand. -/
theorem bitData_of_pad (v : BitVec 8) : v.extractLsb' 1 7 = 0#7 → bitData (v.extractLsb' 0 1) = v := by revert v; decide

/-- The reserved-bits check passes exactly on RSV = 0 and the padding 0. -/
theorem checkReserved_ok (w : PortWord) (pad : Bool) (i j : Instr) :
    checkReserved w pad i = .ok j ↔ PortWord.rsv w = 0#4 ∧ pad = true ∧ i = j := by
  unfold checkReserved; split <;> simp_all

/-- The rows of the PORT format. -/
def isPortRow : Instr → Bool
  | .apply _ | .wrstate _ | .wrnepp _ | .wrreact _ | .wrline _ => true
  | .rdstate | .rdnepp | .rdcount | .rdreact | .rdline | .rdpins | .rdpend => true
  | .reservedOp0 _ | .reservedOp6 _ | .reservedOp7 _ | .reservedOpF _ => true
  | _ => false

/-- What a PORT word decodes to is a PORT row, and encodes back to the word. -/
theorem decodePort_ok {w : PortWord} {i : Instr} (h : decodePort w = .ok i) :
    isPortRow i = true ∧ encode i = .port w := by
  have hres (x : BitVec 4) (hx : PortWord.op w = x) : mkReserved x (w.extractLsb' 0 12) = w := by
    rw [← hx]; exact mkReserved_fields w
  have hport (x : BitVec 4) (hx : PortWord.op w = x) (hr : PortWord.rsv w = 0#4) : mkPort x (PortWord.data w) = w := by
    rw [← hx]; exact mkPort_fields w hr
  have hok {x : Instr} (hx : (Except.ok x : Except DecodeError Instr) = .ok i) : x = i := Except.ok.inj hx
  unfold decodePort at h
  by_cases h0 : PortWord.op w = 0x0#4
  · rw [if_pos h0] at h
    rw [← hok h]; exact ⟨rfl, congrArg Encoding.port (hres _ h0)⟩
  rw [if_neg h0] at h
  by_cases h1 : PortWord.op w = 0x1#4
  · rw [if_pos h1] at h
    obtain ⟨hr, hd, rfl⟩ := (checkReserved_ok ..).1 h
    refine ⟨rfl, congrArg Encoding.port ?_⟩
    rw [stateData_of_pad _ (of_decide_eq_true hd)]; exact hport _ h1 hr
  rw [if_neg h1] at h
  by_cases h2 : PortWord.op w = 0x2#4
  · rw [if_pos h2] at h
    obtain ⟨hr, hd, rfl⟩ := (checkReserved_ok ..).1 h
    refine ⟨rfl, congrArg Encoding.port ?_⟩
    rw [stateData_of_pad _ (of_decide_eq_true hd)]; exact hport _ h2 hr
  rw [if_neg h2] at h
  by_cases h3 : PortWord.op w = 0x3#4
  · rw [if_pos h3] at h
    obtain ⟨hr, -, rfl⟩ := (checkReserved_ok ..).1 h
    exact ⟨rfl, congrArg Encoding.port (hport _ h3 hr)⟩
  rw [if_neg h3] at h
  by_cases h4 : PortWord.op w = 0x4#4
  · rw [if_pos h4] at h
    obtain ⟨hr, hd, rfl⟩ := (checkReserved_ok ..).1 h
    refine ⟨rfl, congrArg Encoding.port ?_⟩
    rw [bitData_of_pad _ (of_decide_eq_true hd)]; exact hport _ h4 hr
  rw [if_neg h4] at h
  by_cases h5 : PortWord.op w = 0x5#4
  · rw [if_pos h5] at h
    obtain ⟨hr, hd, rfl⟩ := (checkReserved_ok ..).1 h
    refine ⟨rfl, congrArg Encoding.port ?_⟩
    rw [bitData_of_pad _ (of_decide_eq_true hd)]; exact hport _ h5 hr
  rw [if_neg h5] at h
  by_cases h6 : PortWord.op w = 0x6#4
  · rw [if_pos h6] at h
    rw [← hok h]; exact ⟨rfl, congrArg Encoding.port (hres _ h6)⟩
  rw [if_neg h6] at h
  by_cases h7 : PortWord.op w = 0x7#4
  · rw [if_pos h7] at h
    rw [← hok h]; exact ⟨rfl, congrArg Encoding.port (hres _ h7)⟩
  rw [if_neg h7] at h
  by_cases h8 : PortWord.op w = 0x8#4
  · rw [if_pos h8] at h
    obtain ⟨hr, hd, rfl⟩ := (checkReserved_ok ..).1 h
    refine ⟨rfl, congrArg Encoding.port ?_⟩
    rw [← of_decide_eq_true hd]; exact hport _ h8 hr
  rw [if_neg h8] at h
  by_cases h9 : PortWord.op w = 0x9#4
  · rw [if_pos h9] at h
    obtain ⟨hr, hd, rfl⟩ := (checkReserved_ok ..).1 h
    refine ⟨rfl, congrArg Encoding.port ?_⟩
    rw [← of_decide_eq_true hd]; exact hport _ h9 hr
  rw [if_neg h9] at h
  by_cases h10 : PortWord.op w = 0xA#4
  · rw [if_pos h10] at h
    obtain ⟨hr, hd, rfl⟩ := (checkReserved_ok ..).1 h
    refine ⟨rfl, congrArg Encoding.port ?_⟩
    rw [← of_decide_eq_true hd]; exact hport _ h10 hr
  rw [if_neg h10] at h
  by_cases h11 : PortWord.op w = 0xB#4
  · rw [if_pos h11] at h
    obtain ⟨hr, hd, rfl⟩ := (checkReserved_ok ..).1 h
    refine ⟨rfl, congrArg Encoding.port ?_⟩
    rw [← of_decide_eq_true hd]; exact hport _ h11 hr
  rw [if_neg h11] at h
  by_cases h12 : PortWord.op w = 0xC#4
  · rw [if_pos h12] at h
    obtain ⟨hr, hd, rfl⟩ := (checkReserved_ok ..).1 h
    refine ⟨rfl, congrArg Encoding.port ?_⟩
    rw [← of_decide_eq_true hd]; exact hport _ h12 hr
  rw [if_neg h12] at h
  by_cases h13 : PortWord.op w = 0xD#4
  · rw [if_pos h13] at h
    obtain ⟨hr, hd, rfl⟩ := (checkReserved_ok ..).1 h
    refine ⟨rfl, congrArg Encoding.port ?_⟩
    rw [← of_decide_eq_true hd]; exact hport _ h13 hr
  rw [if_neg h13] at h
  by_cases h14 : PortWord.op w = 0xE#4
  · rw [if_pos h14] at h
    obtain ⟨hr, hd, rfl⟩ := (checkReserved_ok ..).1 h
    refine ⟨rfl, congrArg Encoding.port ?_⟩
    rw [← of_decide_eq_true hd]; exact hport _ h14 hr
  rw [if_neg h14] at h
  have h15 : PortWord.op w = 0xF#4 := by
    generalize PortWord.op w = o at h0 h1 h2 h3 h4 h5 h6 h7 h8 h9 h10 h11 h12 h13 h14 ⊢
    clear h hres hport
    bv_omega
  rw [← hok h]; exact ⟨rfl, congrArg Encoding.port (hres _ h15)⟩

/-- The PORT rows with an operand decode from their word. -/
theorem decodePort_apply (d : BitVec 3) : decodePort (mkPort 0x1#4 (stateData d)) = .ok (.apply d) := by
  simp [decodePort, decodeS, checkReserved, stateData_pad, stateData_val]

/-- WRSTATE. -/
theorem decodePort_wrstate (d : BitVec 3) : decodePort (mkPort 0x2#4 (stateData d)) = .ok (.wrstate d) := by
  simp [decodePort, decodeS, checkReserved, stateData_pad, stateData_val]

/-- WRNEPP. -/
theorem decodePort_wrnepp (n : BitVec 8) : decodePort (mkPort 0x3#4 n) = .ok (.wrnepp n) := by
  simp [decodePort, decodeN, checkReserved]

/-- WRREACT. -/
theorem decodePort_wrreact (b : BitVec 1) : decodePort (mkPort 0x4#4 (bitData b)) = .ok (.wrreact b) := by
  simp [decodePort, decodeB, checkReserved, bitData_pad, bitData_val]

/-- WRLINE. -/
theorem decodePort_wrline (b : BitVec 1) : decodePort (mkPort 0x5#4 (bitData b)) = .ok (.wrline b) := by
  simp [decodePort, decodeB, checkReserved, bitData_pad, bitData_val]

/-- A PORT row's word decodes to it. -/
theorem decodePort_encode {i : Instr} {w : PortWord} (h : encode i = .port w) : decodePort w = .ok i := by
  cases i <;> simp only [encode, Encoding.port.injEq, reduceCtorEq] at h <;> subst h
  case apply d => exact decodePort_apply d
  case wrstate d => exact decodePort_wrstate d
  case wrnepp n => exact decodePort_wrnepp n
  case wrreact b => exact decodePort_wrreact b
  case wrline b => exact decodePort_wrline b
  case reservedOp0 x => simp [decodePort]
  case reservedOp6 x => simp [decodePort]
  case reservedOp7 x => simp [decodePort]
  case reservedOpF x => simp [decodePort]
  all_goals rfl

/-- The classes of a byte in Idle; a staged digit is not 0. -/
theorem decodeIdle_cases (b : Byte) :
    (∃ d, d ≠ 0#3 ∧ decodeIdle b = .stageState d) ∨ decodeIdle b = .confirm ∨ decodeIdle b = .stageToggle ∨
      decodeIdle b = .stageNepp ∨ decodeIdle b = .stageNop b := by
  by_cases h : isStateDigit b = true
  · have : b.extractLsb' 0 3 ≠ 0#3 := by revert b; decide
    exact .inl ⟨_, this, by simp only [decodeIdle, h, if_true]⟩
  · unfold decodeIdle
    rw [if_neg h]
    split
    · simp
    · split
      · simp
      · split <;> simp

/-- The classes of a byte in AwaitingDigitEntry; a digit is at most 9. -/
theorem decodeEntry_cases (b : Byte) :
    (∃ d : BitVec 4, d.toNat ≤ 9 ∧ decodeEntry b = .entryDigit d) ∨ decodeEntry b = .entryIgnore b := by
  by_cases h : isDecimalDigit b = true
  · have : (b.extractLsb' 0 4).toNat ≤ 9 := by revert b; decide
    exact .inl ⟨_, this, by simp only [decodeEntry, h, if_true]⟩
  · exact .inr (by simp only [decodeEntry, if_neg h])

end Sys2Proof
end

