-- ==== Sys2Proof/Laws/PerInstr.lean ====
section
/-! SUPPORT. The round trip of the encoding, one lemma per instruction (30_encoding.md R73, R75, R77, R79). -/

namespace Sys2Proof.Laws.RoundTrip

/-- A well-formed instruction's encoding decodes to it. -/
def Statement (i : Instr) : Prop := i.wellFormed = true → decode (encode i) = .ok i

/-- A port row needs its word only. -/
theorem of_port {i : Instr} {w : PortWord} (h : encode i = .port w) : Statement i := by
  intro _
  rw [h]
  exact decodePort_encode h

theorem apply (s : BitVec 3) : Statement (.apply s) := of_port rfl
theorem wrstate (s : BitVec 3) : Statement (.wrstate s) := of_port rfl
theorem wrnepp (n : BitVec 8) : Statement (.wrnepp n) := of_port rfl
theorem wrreact (b : BitVec 1) : Statement (.wrreact b) := of_port rfl
theorem wrline (b : BitVec 1) : Statement (.wrline b) := of_port rfl
theorem rdstate : Statement .rdstate := of_port rfl
theorem rdnepp : Statement .rdnepp := of_port rfl
theorem rdcount : Statement .rdcount := of_port rfl
theorem rdreact : Statement .rdreact := of_port rfl
theorem rdline : Statement .rdline := of_port rfl
theorem rdpins : Statement .rdpins := of_port rfl
theorem rdpend : Statement .rdpend := of_port rfl
theorem reservedOp0 (x : BitVec 12) : Statement (.reservedOp0 x) := of_port rfl
theorem reservedOp6 (x : BitVec 12) : Statement (.reservedOp6 x) := of_port rfl
theorem reservedOp7 (x : BitVec 12) : Statement (.reservedOp7 x) := of_port rfl
theorem reservedOpF (x : BitVec 12) : Statement (.reservedOpF x) := of_port rfl

theorem stageState (d : BitVec 3) : Statement (.stageState d) := by
  revert d; unfold Statement; decide

theorem confirm : Statement .confirm := fun _ => rfl
theorem stageToggle : Statement .stageToggle := fun _ => rfl
theorem stageNepp : Statement .stageNepp := fun _ => rfl

theorem stageNop (c : Byte) : Statement (.stageNop c) := by
  intro h
  simp only [Instr.wellFormed, Bool.and_eq_true, Bool.not_eq_true', decide_eq_true_eq] at h
  obtain ⟨hd, h1, h2, h3⟩ := h
  show Except.ok (decodeIdle c) = _
  unfold decodeIdle
  rw [hd, if_neg Bool.false_ne_true, if_neg h1, if_neg h2, if_neg h3]

theorem entryDigit (d : BitVec 4) : Statement (.entryDigit d) := by
  revert d; unfold Statement; decide

theorem entryIgnore (c : Byte) : Statement (.entryIgnore c) := by
  intro h
  simp only [Instr.wellFormed, Bool.not_eq_true'] at h
  simp [encode, decode, decodeEntry, h]

theorem trig : Statement .trig := fun _ => rfl
theorem reset : Statement .reset := fun _ => rfl
theorem service : Statement .service := fun _ => rfl

end Sys2Proof.Laws.RoundTrip
end

