-- ==== Sys2Proof/Laws/State.lean ====
section
/-! SUPPORT. What each update of the state leaves in each field, so that no later proof unfolds it. -/

namespace Sys2Proof.Machine

variable (s : State)

/-- TXS appends to TXQ and leaves the rest. -/
@[simp] theorem State.transmit_fields (bs : List Byte) :
    (s.transmit bs).state = s.state ∧ (s.transmit bs).nepp = s.nepp ∧ (s.transmit bs).ntrig = s.ntrig ∧
    (s.transmit bs).react = s.react ∧ (s.transmit bs).pend = s.pend ∧ (s.transmit bs).pins = s.pins ∧
    (s.transmit bs).line = s.line ∧ (s.transmit bs).sync = s.sync ∧ (s.transmit bs).edgePrev = s.edgePrev ∧
    (s.transmit bs).trigIn = s.trigIn ∧ (s.transmit bs).mode = s.mode ∧ (s.transmit bs).pds = s.pds ∧
    (s.transmit bs).pi = s.pi ∧ (s.transmit bs).tens = s.tens ∧ (s.transmit bs).hostPos = s.hostPos ∧
    (s.transmit bs).portq = s.portq ∧ (s.transmit bs).portData = s.portData ∧ (s.transmit bs).rxq = s.rxq ∧
    (s.transmit bs).txq = s.txq ++ bs ∧ (s.transmit bs).cfg = s.cfg ∧ (s.transmit bs).sched = s.sched ∧
    (s.transmit bs).freeCount = s.freeCount :=
  ⟨rfl, rfl, rfl, rfl, rfl, rfl, rfl, rfl, rfl, rfl, rfl, rfl, rfl, rfl, rfl, rfl, rfl, rfl, rfl, rfl, rfl, rfl⟩

/-- A read's value reaches the host and leaves the rest. -/
@[simp] theorem State.returnValue_fields (v : Nat) :
    (s.returnValue v).state = s.state ∧ (s.returnValue v).nepp = s.nepp ∧ (s.returnValue v).ntrig = s.ntrig ∧
    (s.returnValue v).react = s.react ∧ (s.returnValue v).pend = s.pend ∧ (s.returnValue v).pins = s.pins ∧
    (s.returnValue v).line = s.line ∧ (s.returnValue v).sync = s.sync ∧ (s.returnValue v).edgePrev = s.edgePrev ∧
    (s.returnValue v).trigIn = s.trigIn ∧ (s.returnValue v).mode = s.mode ∧ (s.returnValue v).pds = s.pds ∧
    (s.returnValue v).pi = s.pi ∧ (s.returnValue v).tens = s.tens ∧ (s.returnValue v).hostPos = s.hostPos ∧
    (s.returnValue v).portq = s.portq ∧ (s.returnValue v).portData = v ∧ (s.returnValue v).rxq = s.rxq ∧
    (s.returnValue v).txq = s.txq ∧ (s.returnValue v).cfg = s.cfg ∧ (s.returnValue v).sched = s.sched ∧
    (s.returnValue v).freeCount = s.freeCount :=
  ⟨rfl, rfl, rfl, rfl, rfl, rfl, rfl, rfl, rfl, rfl, rfl, rfl, rfl, rfl, rfl, rfl, rfl, rfl, rfl, rfl, rfl, rfl⟩

/-- Driving the pins leaves the rest. -/
@[simp] theorem State.drivePins_fields (d : BitVec 3) :
    (s.drivePins d).state = s.state ∧ (s.drivePins d).nepp = s.nepp ∧ (s.drivePins d).ntrig = s.ntrig ∧
    (s.drivePins d).react = s.react ∧ (s.drivePins d).pend = s.pend ∧ (s.drivePins d).pins = pinsOf d ∧
    (s.drivePins d).line = s.line ∧ (s.drivePins d).sync = s.sync ∧ (s.drivePins d).edgePrev = s.edgePrev ∧
    (s.drivePins d).trigIn = s.trigIn ∧ (s.drivePins d).mode = s.mode ∧ (s.drivePins d).pds = s.pds ∧
    (s.drivePins d).pi = s.pi ∧ (s.drivePins d).tens = s.tens ∧ (s.drivePins d).hostPos = s.hostPos ∧
    (s.drivePins d).portq = s.portq ∧ (s.drivePins d).portData = s.portData ∧ (s.drivePins d).rxq = s.rxq ∧
    (s.drivePins d).txq = s.txq ∧ (s.drivePins d).cfg = s.cfg ∧ (s.drivePins d).sched = s.sched ∧
    (s.drivePins d).freeCount = s.freeCount :=
  ⟨rfl, rfl, rfl, rfl, rfl, rfl, rfl, rfl, rfl, rfl, rfl, rfl, rfl, rfl, rfl, rfl, rfl, rfl, rfl, rfl, rfl, rfl⟩

/-- The host's position changes and the rest stays. -/
@[simp] theorem State.startScript_fields (p : List HostMicro) :
    (s.startScript p).state = s.state ∧ (s.startScript p).nepp = s.nepp ∧ (s.startScript p).ntrig = s.ntrig ∧
    (s.startScript p).react = s.react ∧ (s.startScript p).pend = s.pend ∧ (s.startScript p).pins = s.pins ∧
    (s.startScript p).line = s.line ∧ (s.startScript p).sync = s.sync ∧ (s.startScript p).edgePrev = s.edgePrev ∧
    (s.startScript p).trigIn = s.trigIn ∧ (s.startScript p).mode = s.mode ∧ (s.startScript p).pds = s.pds ∧
    (s.startScript p).pi = s.pi ∧ (s.startScript p).tens = s.tens ∧ (s.startScript p).hostPos = p ∧
    (s.startScript p).portq = s.portq ∧ (s.startScript p).portData = s.portData ∧ (s.startScript p).rxq = s.rxq ∧
    (s.startScript p).txq = s.txq ∧ (s.startScript p).cfg = s.cfg ∧ (s.startScript p).sched = s.sched ∧
    (s.startScript p).freeCount = s.freeCount :=
  ⟨rfl, rfl, rfl, rfl, rfl, rfl, rfl, rfl, rfl, rfl, rfl, rfl, rfl, rfl, rfl, rfl, rfl, rfl, rfl, rfl, rfl, rfl⟩

/-- Step 1 of SERVICE. -/
@[simp] theorem countPulse_fields :
    (countPulse s).state = s.state ∧ (countPulse s).nepp = s.nepp ∧
    (countPulse s).ntrig = (s.ntrig + 1) % 2 ^ s.cfg.wCnt ∧ (countPulse s).react = s.react ∧
    (countPulse s).pend = s.pend ∧ (countPulse s).pins = s.pins ∧ (countPulse s).line = s.line ∧
    (countPulse s).sync = s.sync ∧ (countPulse s).edgePrev = s.edgePrev ∧ (countPulse s).trigIn = s.trigIn ∧
    (countPulse s).mode = s.mode ∧ (countPulse s).pds = s.pds ∧ (countPulse s).pi = s.pi ∧
    (countPulse s).tens = s.tens ∧ (countPulse s).hostPos = s.hostPos ∧ (countPulse s).portq = s.portq ∧
    (countPulse s).portData = s.portData ∧ (countPulse s).rxq = s.rxq ∧ (countPulse s).txq = s.txq ∧
    (countPulse s).cfg = s.cfg ∧ (countPulse s).sched = s.sched ∧ (countPulse s).freeCount = s.freeCount :=
  ⟨rfl, rfl, rfl, rfl, rfl, rfl, rfl, rfl, rfl, rfl, rfl, rfl, rfl, rfl, rfl, rfl, rfl, rfl, rfl, rfl, rfl, rfl⟩

/-- STATE and PINS of an advance. -/
@[simp] theorem advanceOutput_fields :
    (advanceOutput s).state = succState s.state ∧ (advanceOutput s).nepp = s.nepp ∧
    (advanceOutput s).ntrig = s.ntrig ∧ (advanceOutput s).react = s.react ∧ (advanceOutput s).pend = s.pend ∧
    (advanceOutput s).pins = pinsOf (succState s.state) ∧ (advanceOutput s).line = s.line ∧
    (advanceOutput s).sync = s.sync ∧ (advanceOutput s).edgePrev = s.edgePrev ∧ (advanceOutput s).trigIn = s.trigIn ∧
    (advanceOutput s).mode = s.mode ∧ (advanceOutput s).pds = s.pds ∧ (advanceOutput s).pi = s.pi ∧
    (advanceOutput s).tens = s.tens ∧ (advanceOutput s).hostPos = s.hostPos ∧ (advanceOutput s).portq = s.portq ∧
    (advanceOutput s).portData = s.portData ∧ (advanceOutput s).rxq = s.rxq ∧ (advanceOutput s).txq = s.txq ∧
    (advanceOutput s).cfg = s.cfg ∧ (advanceOutput s).sched = s.sched ∧ (advanceOutput s).freeCount = s.freeCount :=
  ⟨rfl, rfl, rfl, rfl, rfl, rfl, rfl, rfl, rfl, rfl, rfl, rfl, rfl, rfl, rfl, rfl, rfl, rfl, rfl, rfl, rfl, rfl⟩

/-- The status line. -/
@[simp] theorem statusLine_fields :
    (statusLine s).state = s.state ∧ (statusLine s).nepp = s.nepp ∧ (statusLine s).ntrig = s.ntrig ∧
    (statusLine s).react = s.react ∧ (statusLine s).pend = s.pend ∧ (statusLine s).pins = s.pins ∧
    (statusLine s).line = s.line ∧ (statusLine s).sync = s.sync ∧ (statusLine s).edgePrev = s.edgePrev ∧
    (statusLine s).trigIn = s.trigIn ∧ (statusLine s).mode = s.mode ∧ (statusLine s).pds = s.pds ∧
    (statusLine s).pi = s.pi ∧ (statusLine s).tens = s.tens ∧ (statusLine s).hostPos = s.hostPos ∧
    (statusLine s).portq = s.portq ∧ (statusLine s).portData = s.portData ∧ (statusLine s).rxq = s.rxq ∧
    (statusLine s).txq = s.txq ++ msgStatus s.state.toNat ∧ (statusLine s).cfg = s.cfg ∧
    (statusLine s).sched = s.sched ∧ (statusLine s).freeCount = s.freeCount :=
  ⟨rfl, rfl, rfl, rfl, rfl, rfl, rfl, rfl, rfl, rfl, rfl, rfl, rfl, rfl, rfl, rfl, rfl, rfl, rfl, rfl, rfl, rfl⟩

/-- The readout. -/
@[simp] theorem readout_fields :
    (readout s).state = s.state ∧ (readout s).nepp = s.nepp ∧ (readout s).ntrig = s.ntrig ∧
    (readout s).react = s.react ∧ (readout s).pend = s.pend ∧ (readout s).pins = s.pins ∧ (readout s).line = s.line ∧
    (readout s).sync = s.sync ∧ (readout s).edgePrev = s.edgePrev ∧ (readout s).trigIn = s.trigIn ∧
    (readout s).mode = s.mode ∧ (readout s).pds = s.pds ∧ (readout s).pi = s.pi ∧ (readout s).tens = s.tens ∧
    (readout s).hostPos = s.hostPos ∧ (readout s).portq = s.portq ∧ (readout s).portData = s.portData ∧
    (readout s).rxq = s.rxq ∧ (readout s).txq = s.txq ++ msgReadout s.ntrig ∧ (readout s).cfg = s.cfg ∧
    (readout s).sched = s.sched ∧ (readout s).freeCount = s.freeCount :=
  ⟨rfl, rfl, rfl, rfl, rfl, rfl, rfl, rfl, rfl, rfl, rfl, rfl, rfl, rfl, rfl, rfl, rfl, rfl, rfl, rfl, rfl, rfl⟩

/-- The epilogue of SERVICE. -/
@[simp] theorem clearPending_fields :
    (clearPending s).state = s.state ∧ (clearPending s).nepp = s.nepp ∧ (clearPending s).ntrig = s.ntrig ∧
    (clearPending s).react = s.react ∧ (clearPending s).pend = 0#1 ∧ (clearPending s).pins = s.pins ∧
    (clearPending s).line = s.line ∧ (clearPending s).sync = s.sync ∧ (clearPending s).edgePrev = s.edgePrev ∧
    (clearPending s).trigIn = s.trigIn ∧ (clearPending s).mode = s.mode ∧ (clearPending s).pds = s.pds ∧
    (clearPending s).pi = s.pi ∧ (clearPending s).tens = s.tens ∧ (clearPending s).hostPos = s.hostPos ∧
    (clearPending s).portq = s.portq ∧ (clearPending s).portData = s.portData ∧ (clearPending s).rxq = s.rxq ∧
    (clearPending s).txq = s.txq ∧ (clearPending s).cfg = s.cfg ∧ (clearPending s).sched = s.sched ∧
    (clearPending s).freeCount = s.freeCount :=
  ⟨rfl, rfl, rfl, rfl, rfl, rfl, rfl, rfl, rfl, rfl, rfl, rfl, rfl, rfl, rfl, rfl, rfl, rfl, rfl, rfl, rfl, rfl⟩

/-- TRIG writes PEND at most. -/
@[simp] theorem latchTrigger_fields :
    (latchTrigger s).state = s.state ∧ (latchTrigger s).nepp = s.nepp ∧ (latchTrigger s).ntrig = s.ntrig ∧
    (latchTrigger s).react = s.react ∧ (latchTrigger s).pins = s.pins ∧ (latchTrigger s).line = s.line ∧
    (latchTrigger s).sync = s.sync ∧ (latchTrigger s).edgePrev = s.edgePrev ∧ (latchTrigger s).trigIn = s.trigIn ∧
    (latchTrigger s).mode = s.mode ∧ (latchTrigger s).pds = s.pds ∧ (latchTrigger s).pi = s.pi ∧
    (latchTrigger s).tens = s.tens ∧ (latchTrigger s).hostPos = s.hostPos ∧ (latchTrigger s).portq = s.portq ∧
    (latchTrigger s).portData = s.portData ∧ (latchTrigger s).rxq = s.rxq ∧ (latchTrigger s).txq = s.txq ∧
    (latchTrigger s).cfg = s.cfg ∧ (latchTrigger s).sched = s.sched ∧ (latchTrigger s).freeCount = s.freeCount := by
  unfold latchTrigger; split <;> simp

/-- Closing an open line writes LINE and TXQ at most. -/
@[simp] theorem closeHeldLine_fields :
    (closeHeldLine s).state = s.state ∧ (closeHeldLine s).nepp = s.nepp ∧ (closeHeldLine s).ntrig = s.ntrig ∧
    (closeHeldLine s).react = s.react ∧ (closeHeldLine s).pend = s.pend ∧ (closeHeldLine s).pins = s.pins ∧
    (closeHeldLine s).sync = s.sync ∧ (closeHeldLine s).edgePrev = s.edgePrev ∧ (closeHeldLine s).trigIn = s.trigIn ∧
    (closeHeldLine s).mode = s.mode ∧ (closeHeldLine s).pds = s.pds ∧ (closeHeldLine s).pi = s.pi ∧
    (closeHeldLine s).tens = s.tens ∧ (closeHeldLine s).hostPos = s.hostPos ∧ (closeHeldLine s).portq = s.portq ∧
    (closeHeldLine s).portData = s.portData ∧ (closeHeldLine s).rxq = s.rxq ∧ (closeHeldLine s).cfg = s.cfg ∧
    (closeHeldLine s).sched = s.sched ∧ (closeHeldLine s).freeCount = s.freeCount := by
  unfold closeHeldLine; split <;> simp

/-- What an advance resets is NTRIG or NEPP. -/
@[simp] theorem resetOnAdvance_fields :
    (resetOnAdvance s).state = s.state ∧ (resetOnAdvance s).react = s.react ∧ (resetOnAdvance s).pend = s.pend ∧
    (resetOnAdvance s).pins = s.pins ∧ (resetOnAdvance s).line = s.line ∧ (resetOnAdvance s).sync = s.sync ∧
    (resetOnAdvance s).edgePrev = s.edgePrev ∧ (resetOnAdvance s).trigIn = s.trigIn ∧
    (resetOnAdvance s).mode = s.mode ∧ (resetOnAdvance s).pds = s.pds ∧ (resetOnAdvance s).pi = s.pi ∧
    (resetOnAdvance s).tens = s.tens ∧ (resetOnAdvance s).hostPos = s.hostPos ∧ (resetOnAdvance s).portq = s.portq ∧
    (resetOnAdvance s).portData = s.portData ∧ (resetOnAdvance s).rxq = s.rxq ∧ (resetOnAdvance s).txq = s.txq ∧
    (resetOnAdvance s).cfg = s.cfg ∧ (resetOnAdvance s).sched = s.sched ∧
    (resetOnAdvance s).freeCount = s.freeCount := by
  unfold resetOnAdvance; split <;> simp

/-- LINE after closing an open line. -/
@[simp] theorem closeHeldLine_line : (closeHeldLine s).line = 0#1 := by
  unfold closeHeldLine
  split
  · rfl
  · have h : s.line = 0#1 ∨ s.line = 1#1 := by
      revert s; intro s; generalize s.line = b; revert b; decide
    rcases h with h | h
    · exact h
    · contradiction

/-- TXQ after closing an open line. -/
@[simp] theorem closeHeldLine_txq :
    (closeHeldLine s).txq = s.txq ++ (if s.line = 1#1 then [newline] else []) := by
  unfold closeHeldLine; split <;> simp

/-- What goes with a micro-step never changes these fields. -/
@[simp] theorem applyThen_fields (t : HostThen) :
    (applyThen t s).state = s.state ∧ (applyThen t s).nepp = s.nepp ∧ (applyThen t s).ntrig = s.ntrig ∧
    (applyThen t s).react = s.react ∧ (applyThen t s).pend = s.pend ∧ (applyThen t s).pins = s.pins ∧
    (applyThen t s).line = s.line ∧ (applyThen t s).sync = s.sync ∧ (applyThen t s).edgePrev = s.edgePrev ∧
    (applyThen t s).trigIn = s.trigIn ∧ (applyThen t s).portq = s.portq ∧ (applyThen t s).portData = s.portData ∧
    (applyThen t s).rxq = s.rxq ∧ (applyThen t s).txq = s.txq ∧ (applyThen t s).cfg = s.cfg ∧
    (applyThen t s).sched = s.sched ∧ (applyThen t s).freeCount = s.freeCount := by
  cases t <;> simp [applyThen]
  all_goals split <;> simp

/-- Nothing goes with most micro-steps. -/
@[simp] theorem applyThen_nothing : applyThen .nothing s = s := rfl

/-- The letter branch writes PDS, PI and the host's position. -/
@[simp] theorem letterBranch_fields (c : Byte) (p : Option PendingInstr) :
    (letterBranch c p s).state = s.state ∧ (letterBranch c p s).nepp = s.nepp ∧
    (letterBranch c p s).ntrig = s.ntrig ∧ (letterBranch c p s).react = s.react ∧
    (letterBranch c p s).pend = s.pend ∧ (letterBranch c p s).pins = s.pins ∧ (letterBranch c p s).line = s.line ∧
    (letterBranch c p s).sync = s.sync ∧ (letterBranch c p s).edgePrev = s.edgePrev ∧
    (letterBranch c p s).trigIn = s.trigIn ∧ (letterBranch c p s).mode = s.mode ∧ (letterBranch c p s).pds = none ∧
    (letterBranch c p s).tens = s.tens ∧ (letterBranch c p s).hostPos = letterScript c ∧
    (letterBranch c p s).portq = s.portq ∧ (letterBranch c p s).portData = s.portData ∧
    (letterBranch c p s).rxq = s.rxq ∧ (letterBranch c p s).txq = s.txq ∧ (letterBranch c p s).cfg = s.cfg ∧
    (letterBranch c p s).sched = s.sched ∧ (letterBranch c p s).freeCount = s.freeCount :=
  ⟨rfl, rfl, rfl, rfl, rfl, rfl, rfl, rfl, rfl, rfl, rfl, rfl, rfl, rfl, rfl, rfl, rfl, rfl, rfl, rfl, rfl⟩

end Sys2Proof.Machine
end

