-- ==== Sys2Proof/Laws/Step.lean ====
section
/-! SUPPORT. Everything a meaning, a micro-step and a step can do: one inversion lemma per shared operation, which later
proofs cite instead of unfolding it. -/

namespace Sys2Proof.Machine

variable {s t : State}

/-- A state-range check that answers a next state had s in range. -/
theorem stateRangeChecked_next {d : BitVec 3} {w : PortWord} {u : State} :
    stateRangeChecked d w u = .next t ↔ d ≠ 0#3 ∧ u = t := by
  unfold stateRangeChecked; split <;> simp_all

/-- What a port operation can do: write its one register, or return a value. -/
theorem exec_port_cases {i : Instr} (hp : isPortRow i = true) (h : exec i s = .next t) :
    (∃ d, d ≠ 0#3 ∧ i = .apply d ∧ t = { s with pins := pinsOf d }) ∨
    (∃ d, d ≠ 0#3 ∧ i = .wrstate d ∧ t = { s with state := d }) ∨
    (∃ n, i = .wrnepp n ∧ t = { s with nepp := n }) ∨
    (∃ b, i = .wrreact b ∧ t = { s with react := b }) ∨
    (∃ b, i = .wrline b ∧ t = { s with line := b }) ∨
    ((∀ b, i ≠ .wrreact b) ∧ ∃ v, t = { s with portData := v }) := by
  cases i <;> simp only [isPortRow, Bool.false_eq_true] at hp
  case apply d =>
    obtain ⟨hd, rfl⟩ := stateRangeChecked_next.1 h
    exact .inl ⟨d, hd, rfl, rfl⟩
  case wrstate d =>
    obtain ⟨hd, rfl⟩ := stateRangeChecked_next.1 h
    exact .inr (.inl ⟨d, hd, rfl, rfl⟩)
  case wrnepp n => cases h; exact .inr (.inr (.inl ⟨n, rfl, rfl⟩))
  case wrreact b => cases h; exact .inr (.inr (.inr (.inl ⟨b, rfl, rfl⟩)))
  case wrline b => cases h; exact .inr (.inr (.inr (.inr (.inl ⟨b, rfl, rfl⟩))))
  all_goals cases h <;> exact .inr (.inr (.inr (.inr (.inr ⟨by simp, _, rfl⟩))))

/-- A PORT word that runs decodes to a port operation. -/
theorem issuePort_next {w : PortWord} (h : issuePort w s = .next t) :
    ∃ i, decodePort w = .ok i ∧ isPortRow i = true ∧ exec i s = .next t := by
  unfold issuePort at h
  split at h
  · exact ⟨_, ‹_›, (decodePort_ok ‹_›).1, h⟩
  · cases h

/-- A port operation given by its word runs as itself. -/
theorem issuePort_portOf {i : Instr} {w : PortWord} (h : encode i = .port w) : issuePort (portOf i) s = exec i s := by
  simp [issuePort, portOf, h, decodePort_encode h]

/-- A serial byte always runs, and writes PDS, PI, TENS and the host's position only. -/
theorem exec_serial_next (m : Mode) (b : Byte) (s : State) :
    ∃ p q r x, exec (decodeSerial m b) s = .next { s with pds := p, pi := q, tens := r, hostPos := x } := by
  cases m
  · rcases decodeIdle_cases b with ⟨d, -, h⟩ | h | h | h | h <;> rw [decodeSerial, h]
    all_goals exact ⟨_, _, _, _, rfl⟩
  · rcases decodeEntry_cases b with ⟨d, -, h⟩ | h <;> rw [decodeSerial, h]
    · unfold exec execEntryDigit
      cases hs : s.tens
      · exact ⟨_, _, _, _, rfl⟩
      · exact ⟨s.pds, s.pi, s.tens, _, rfl⟩
    · exact ⟨_, _, _, _, rfl⟩

/-- A micro-step that answers a next state ran its act and then what goes with it. -/
theorem runMicro_next {m : HostMicro} (h : runMicro m s = .next t) :
    ∃ u, runAct m.act s = .next u ∧ t = applyThen m.andThen u := by
  unfold runMicro at h
  split at h
  · exact ⟨_, ‹_›, by cases h; rfl⟩
  · cases h
  · cases h

/-- What a port operation leaves alone. -/
theorem exec_port_frame {i : Instr} (hp : isPortRow i = true) (h : exec i s = .next t) :
    t.ntrig = s.ntrig ∧ t.pend = s.pend ∧ t.sync = s.sync ∧ t.edgePrev = s.edgePrev ∧ t.trigIn = s.trigIn ∧
    t.mode = s.mode ∧ t.pds = s.pds ∧ t.pi = s.pi ∧ t.tens = s.tens ∧ t.hostPos = s.hostPos ∧ t.portq = s.portq ∧
    t.rxq = s.rxq ∧ t.txq = s.txq ∧ t.cfg = s.cfg ∧ t.sched = s.sched ∧ t.freeCount = s.freeCount := by
  rcases exec_port_cases hp h with ⟨_, _, _, rfl⟩ | ⟨_, _, _, rfl⟩ | ⟨_, _, rfl⟩ | ⟨_, _, rfl⟩ | ⟨_, _, rfl⟩ | ⟨_, _, rfl⟩
  all_goals simp

/-- What an act of a micro-step leaves alone; one TX appends its byte. -/
theorem runAct_frame {a : HostAct} (h : runAct a s = .next t) :
    t.ntrig = s.ntrig ∧ t.pend = s.pend ∧ t.sync = s.sync ∧ t.edgePrev = s.edgePrev ∧ t.trigIn = s.trigIn ∧
    t.mode = s.mode ∧ t.pds = s.pds ∧ t.pi = s.pi ∧ t.tens = s.tens ∧ t.hostPos = s.hostPos ∧ t.portq = s.portq ∧
    t.rxq = s.rxq ∧ (t.txq = s.txq ∨ ∃ b, t.txq = s.txq ++ [b]) ∧ t.cfg = s.cfg ∧ t.sched = s.sched ∧
    t.freeCount = s.freeCount := by
  cases a with
  | tx b => cases h; simp
  | port w =>
    obtain ⟨i, -, hp, he⟩ := issuePort_next h
    have := exec_port_frame hp he
    tauto

/-- What a step of the host can be. -/
theorem hostStep_cases (h : hostStep s = .next t) :
    (∃ m rest, s.hostPos = m :: rest ∧ runMicro m { s with hostPos := rest } = .next t) ∨
    (s.hostPos = [] ∧ ∃ w ws, s.portq = w :: ws ∧ issuePort w { s with portq := ws } = .next t) ∨
    (s.hostPos = [] ∧ s.portq = [] ∧ s.cfg.host = .serial ∧
      ∃ b bs, s.rxq = b :: bs ∧ exec (decodeSerial s.mode b) { s with rxq := bs } = .next t) ∨
    (hostWaits s = true ∧ t = s) := by
  unfold hostStep at h
  split at h
  · exact .inl ⟨_, _, ‹_›, h⟩
  · rename_i h1
    split at h
    · exact .inr (.inl ⟨h1, _, _, ‹_›, h⟩)
    · rename_i h2
      split at h
      · exact .inr (.inr (.inl ⟨h1, h2, ‹_›, _, _, ‹_›, h⟩))
      · rename_i h3 h4
        cases h; exact .inr (.inr (.inr ⟨by simp [hostWaits, h1, h2, h4], rfl⟩))
      · rename_i h3
        cases h; exact .inr (.inr (.inr ⟨by simp [hostWaits, h1, h2, h3], rfl⟩))

/-- What a step of the host leaves alone, whatever it is. -/
theorem hostStep_frame (h : hostStep s = .next t) :
    t.ntrig = s.ntrig ∧ t.pend = s.pend ∧ t.sync = s.sync ∧ t.edgePrev = s.edgePrev ∧ t.trigIn = s.trigIn ∧
    (t.txq = s.txq ∨ ∃ b, t.txq = s.txq ++ [b]) ∧ t.cfg = s.cfg ∧ t.sched = s.sched ∧ t.freeCount = s.freeCount := by
  rcases hostStep_cases h with ⟨m, rest, -, hm⟩ | ⟨-, w, ws, -, hi⟩ | ⟨-, -, -, b, bs, -, he⟩ | ⟨-, rfl⟩
  · obtain ⟨u, hu, rfl⟩ := runMicro_next hm
    have := runAct_frame hu
    simpa using ⟨this.1, this.2.1, this.2.2.1, this.2.2.2.1, this.2.2.2.2.1, this.2.2.2.2.2.2.2.2.2.2.2.2⟩
  · obtain ⟨i, -, hp, he⟩ := issuePort_next hi
    have := exec_port_frame hp he
    simp_all
  · obtain ⟨_, _, _, _, hx⟩ := exec_serial_next s.mode b { s with rxq := bs }
    rw [hx] at he; cases he; simp
  · simp

/-- The state an agent's step starts from: the schedule's entry taken, or a free value drawn. -/
abbrev taken (s : State) (sc : List Event) (n : Nat) : State := { s with sched := sc, freeCount := n }

/-- What a step can be: which agent took it, and what it did. -/
theorem step_cases (h : step s = .next t) : ∃ sc n,
    (s.sched.head? = some .trig ∧ t = latchTrigger (taken s sc n)) ∨
    (s.sched.head? = some .reset ∧ exec .reset (taken s sc n) = .next t) ∨
    (∃ b, s.sched.head? = some (.rx b) ∧ t = { taken s sc n with rxq := s.rxq ++ [b] }) ∨
    ((s.sched.head? = some .svc ∨ s.sched.head? = none) ∧
      t = if serviceEnabled s then serviceTrigger (taken s sc n) else taken s sc n) ∨
    ((s.sched.head? = some .host ∨ s.sched.head? = some .hostRun ∨ s.sched.head? = none) ∧
      hostStep (taken s sc n) = .next t) ∨
    (∃ l, s.sched.head? = some (.level l) ∧ t = { taken s sc n with trigIn := l }) ∨
    (s.sched.head? = some .sample ∧ t = sampleInput (taken s sc n)) := by
  have hsvc : ∀ n, exec .service { s with freeCount := n } =
      .next (if serviceEnabled s then serviceTrigger { s with freeCount := n } else { s with freeCount := n }) :=
    fun _ => rfl
  unfold step nextStep at h
  split at h
  · rename_i e rest hs
    refine ⟨afterEvent e rest s, s.freeCount, ?_⟩
    cases e <;> simp only [hs, List.head?_cons, Option.some.injEq, reduceCtorEq, false_and, exists_false, false_or,
      or_false, true_and]
    case trig => cases h; rfl
    case reset => exact h
    case rx b => cases h; exact ⟨b, rfl, rfl⟩
    case svc => cases h; rfl
    case host => exact h
    case hostRun => exact h
    case level l => cases h; exact ⟨l, rfl, rfl⟩
    case sample => cases h; rfl
  · rename_i hs
    simp only [hs, List.head?_nil, reduceCtorEq, false_and, exists_false, false_or, or_false, or_true, true_and]
    unfold unscheduledStep at h
    split at h
    · exact ⟨s.sched, s.freeCount, .inl (by cases h; rfl)⟩
    · exact ⟨s.sched, s.freeCount, .inr h⟩
    · split at h
      · exact ⟨s.sched, s.freeCount + 1, .inl (by rw [hsvc] at h; cases h; rfl)⟩
      · exact ⟨s.sched, s.freeCount + 1, .inr h⟩

/-- SERVICE below the threshold. -/
theorem serviceTrigger_below (h : (s.ntrig + 1) % 2 ^ s.cfg.wCnt ≠ s.nepp.toNat) :
    serviceTrigger s = { s with
      ntrig := (s.ntrig + 1) % 2 ^ s.cfg.wCnt, pend := 0#1,
      txq := s.txq ++ msgReadout ((s.ntrig + 1) % 2 ^ s.cfg.wCnt) } := by
  have : thresholdReached (countPulse s) = false := by simp [thresholdReached, zext, h]
  show clearPending (readout (if thresholdReached (countPulse s) = true then _ else _)) = _
  rw [this]; rfl

/-- SERVICE at the threshold. -/
theorem serviceTrigger_reached (h : (s.ntrig + 1) % 2 ^ s.cfg.wCnt = s.nepp.toNat) :
    serviceTrigger s = clearPending (readout (advance (countPulse s))) := by
  have : thresholdReached (countPulse s) = true := by simp [thresholdReached, zext, h]
  show clearPending (readout (if thresholdReached (countPulse s) = true then _ else _)) = _
  rw [this]; rfl

/-- What SERVICE leaves alone, whether it advances or not. -/
theorem serviceTrigger_frame (s : State) :
    (serviceTrigger s).react = s.react ∧ (serviceTrigger s).sync = s.sync ∧
    (serviceTrigger s).edgePrev = s.edgePrev ∧ (serviceTrigger s).trigIn = s.trigIn ∧
    (serviceTrigger s).mode = s.mode ∧ (serviceTrigger s).pds = s.pds ∧ (serviceTrigger s).pi = s.pi ∧
    (serviceTrigger s).tens = s.tens ∧ (serviceTrigger s).hostPos = s.hostPos ∧ (serviceTrigger s).portq = s.portq ∧
    (serviceTrigger s).portData = s.portData ∧ (serviceTrigger s).rxq = s.rxq ∧ (serviceTrigger s).cfg = s.cfg ∧
    (serviceTrigger s).sched = s.sched ∧ (serviceTrigger s).freeCount = s.freeCount ∧ (serviceTrigger s).pend = 0#1 := by
  by_cases h : (s.ntrig + 1) % 2 ^ s.cfg.wCnt = s.nepp.toNat
  · rw [serviceTrigger_reached h]; simp [advance]
  · rw [serviceTrigger_below h]; simp

/-- A SAMPLE changes PEND only on a rise of the last stage. -/
theorem sampleInput_pend (h : (sampleInput s).pend ≠ s.pend) : s.edgePrev = false ∧ (sampleInput s).edgePrev = true := by
  unfold sampleInput at h ⊢
  dsimp only at h ⊢
  split at h
  · rename_i hrise
    rw [if_pos hrise]
    simp only [Bool.and_eq_true, Bool.not_eq_true'] at hrise
    exact ⟨hrise.2, by simpa using hrise.1⟩
  · exact absurd rfl h

/-- With REACT = 1 a pulse is latched and serviced. -/
theorem pulse_body (h : s.react = 1#1) :
    exec .trig s = .next { s with pend := 1#1 } ∧
    exec .service { s with pend := 1#1 } = .next (serviceTrigger { s with pend := 1#1 }) := by
  constructor
  · simp [exec, execTrig, latchTrigger, latchesTrigger, h]
  · simp [exec, execService, serviceEnabled, h]

/-- The transmissions of a message, run with no other agent in between, append it, and then what goes with the last
one happens. -/
theorem finishScript_microTxs (bs : List Byte) (th : HostThen) (k : Nat) (rest : List HostMicro) (s : State)
    (hb : bs ≠ []) :
    finishScript (bs.length + k) { s with hostPos := microTxs bs th ++ rest } =
      finishScript k (applyThen th { s with hostPos := rest, txq := s.txq ++ bs }) := by
  induction bs generalizing s with
  | nil => contradiction
  | cons b bs ih =>
    cases bs with
    | nil =>
      rw [show [b].length + k = k + 1 by simp; omega]
      simp [microTxs, microTx, finishScript, runMicro, runAct, State.transmit]
    | cons c cs =>
      have := ih { s with txq := s.txq ++ [b] } (by simp)
      rw [show (b :: c :: cs).length + k = ((c :: cs).length + k) + 1 by simp; omega]
      simp only [microTxs, microTx, List.cons_append, finishScript, runMicro, runAct, State.transmit,
        applyThen_nothing]
      simpa using this

end Sys2Proof.Machine
end

