-- ==== Sys2Proof/Laws/Script.lean ====
section
/-! SUPPORT. Running the host's scripts with no other agent in between, and the lengths of its messages. -/

namespace Sys2Proof.Machine

variable {s : State}

/-- A 1-bit flag is 1 or 0. -/
theorem bit_cases (b : BitVec 1) : b = 1#1 ∨ b = 0#1 := by revert b; decide

/-- An empty script is finished. -/
theorem finishScript_nil (h : s.hostPos = []) (n : Nat) : finishScript n s = .next s := by
  cases n <;> simp [finishScript, h]

/-- A port operation of a script is that operation, and then what goes with it. -/
theorem finishScript_port {i : Instr} {w : PortWord} (hw : encode i = .port w) {th : HostThen}
    {rest : List HostMicro} {u : State} {n : Nat} (hs : s.hostPos = microPort i th :: rest)
    (he : exec i { s with hostPos := rest } = .next u) :
    finishScript (n + 1) s = finishScript n (applyThen th u) := by
  simp only [finishScript, hs, runMicro, microPort, runAct]
  rw [issuePort_portOf hw, he]

/-- The transmissions of a message at the head of a script append it. -/
theorem finishScript_txs (bs : List Byte) (th : HostThen) (n : Nat) (rest : List HostMicro) (hb : bs ≠ [])
    (hn : bs.length ≤ n) (hs : s.hostPos = microTxs bs th ++ rest) :
    finishScript n s =
      finishScript (n - bs.length) (applyThen th { s with hostPos := rest, txq := s.txq ++ bs }) := by
  have := finishScript_microTxs bs th (n - bs.length) rest s hb
  rw [show bs.length + (n - bs.length) = n by omega, ← hs] at this
  exact this

/-- The digits added before `acc` are at least one, and at most k for a number below 10^k. -/
theorem decDigits_length (k : Nat) : ∀ (fuel n : Nat) (acc : List Byte), n < fuel → n < 10 ^ (k + 1) →
    acc.length + 1 ≤ (decDigits fuel n acc).length ∧ (decDigits fuel n acc).length ≤ acc.length + (k + 1) := by
  induction k with
  | zero =>
    intro fuel n acc hf hn
    obtain ⟨f, rfl⟩ : ∃ f, fuel = f + 1 := ⟨fuel - 1, by omega⟩
    have : n / 10 = 0 := by omega
    simp [decDigits, this]
  | succ k ih =>
    intro fuel n acc hf hn
    obtain ⟨f, rfl⟩ : ∃ f, fuel = f + 1 := ⟨fuel - 1, by omega⟩
    by_cases h : n / 10 = 0
    · simp [decDigits, h]
    · have := ih f (n / 10) (digitByte (n % 10) :: acc) (by omega) (by rw [pow_succ] at hn; omega)
      simp only [decDigits, if_neg h]
      simp only [List.length_cons] at this
      omega

/-- dec(v) of a number below 10^k has at least one byte and at most k. -/
theorem dec_length (k n : Nat) (h : n < 10 ^ (k + 1)) : 1 ≤ (dec n).length ∧ (dec n).length ≤ k + 1 := by
  have := decDigits_length k (n + 1) n [] (by omega) h
  simpa [dec] using this

end Sys2Proof.Machine
end

