-- ==== Sys2Proof/Tests/Slice0.lean ====
section
/-! SUPPORT. Tests of the model. Expected results come from spec/95_test_vectors.md (the vector's id stands in each
docstring) or from the table or rule named there. The second half shows, for each statement that has hypotheses, values
that meet them. -/

namespace Sys2Proof.Tests

open Sys2Proof.Machine

/-- The start of every vector of 95_test_vectors.md section 5, the host between bytes. -/
def start : State := { State.reset with state := 2#3, ntrig := 4, pins := 0x01#5, hostPos := [] }

/-- The same with THRESH_MODE, W_CNT and LATCH_WHILE_DISABLED given. -/
def start' (m : ThreshMode) (w : Nat) (l : Bool) : State :=
  { start with cfg := { Config.defaultParams with threshMode := m, wCnt := w, latchWhileDisabled := l } }

/-- A state of 95_test_vectors.md section 4: PEND = 1, REACT = 1. -/
def armed (m : ThreshMode) (w : Nat) (st : BitVec 3) (ne : BitVec 8) (nt : Nat) (li : BitVec 1) : State :=
  { start' m w false with state := st, nepp := ne, ntrig := nt, line := li, pend := 1#1 }

/-- The outcome is a next state with the property. -/
def nextHas (o : Result) (p : State → Bool) : Bool :=
  match o with
  | .next t => p t
  | .fault _ => false
  | .refused _ => false

/-- The outcome is this fault. -/
def faults (o : Result) (f : Fault) : Bool :=
  match o with
  | .next _ => false
  | .fault g => decide (g = f)
  | .refused _ => false

/-! Well-formedness: one ill-formed term for each check -/

theorem test_wf_apply_zero : (Instr.apply 0#3).wellFormed = false := by decide

theorem test_wf_wrstate_zero : (Instr.wrstate 0#3).wellFormed = false := by decide

theorem test_wf_stage_state_zero : (Instr.stageState 0#3).wellFormed = false := by decide

theorem test_wf_stage_nop_digit : (Instr.stageNop 0x31#8).wellFormed = false ∧ (Instr.stageNop 0x37#8).wellFormed = false := by
  decide

theorem test_wf_stage_nop_named :
    (Instr.stageNop 0x0D#8).wellFormed = false ∧ (Instr.stageNop 0x69#8).wellFormed = false ∧
      (Instr.stageNop 0x6E#8).wellFormed = false := by decide

theorem test_wf_entry_digit_ten : (Instr.entryDigit 10#4).wellFormed = false := by decide

theorem test_wf_entry_ignore_digit :
    (Instr.entryIgnore 0x30#8).wellFormed = false ∧ (Instr.entryIgnore 0x39#8).wellFormed = false := by decide

/-! Decoding, from words written out from 30_encoding.md R73, R75 and R77 -/

theorem test_decode_port_writes :
    decodePort 0b0001000000000011#16 = .ok (.apply 3#3) ∧ decodePort 0b0010000000000101#16 = .ok (.wrstate 5#3) ∧
    decodePort 0b0011000000101010#16 = .ok (.wrnepp 42#8) ∧ decodePort 0b0100000000000001#16 = .ok (.wrreact 1#1) ∧
    decodePort 0b0101000000000001#16 = .ok (.wrline 1#1) := ⟨rfl, rfl, rfl, rfl, rfl⟩

theorem test_decode_port_reads :
    decodePort 0b1000000000000000#16 = .ok .rdstate ∧ decodePort 0b1001000000000000#16 = .ok .rdnepp ∧
    decodePort 0b1010000000000000#16 = .ok .rdcount ∧ decodePort 0b1011000000000000#16 = .ok .rdreact ∧
    decodePort 0b1100000000000000#16 = .ok .rdline ∧ decodePort 0b1101000000000000#16 = .ok .rdpins ∧
    decodePort 0b1110000000000000#16 = .ok .rdpend := ⟨rfl, rfl, rfl, rfl, rfl, rfl, rfl⟩

theorem test_decode_port_reserved :
    decodePort 0b0000000000000000#16 = .ok (.reservedOp0 0#12) ∧
    decodePort 0b0110000100100011#16 = .ok (.reservedOp6 0x123#12) ∧
    decodePort 0b0111000000000000#16 = .ok (.reservedOp7 0#12) ∧
    decodePort 0b1111111111111111#16 = .ok (.reservedOpF 0xFFF#12) := ⟨rfl, rfl, rfl, rfl⟩

theorem test_decode_idle :
    decodeIdle 0b00110001#8 = .stageState 1#3 ∧ decodeIdle 0b00110111#8 = .stageState 7#3 ∧
    decodeIdle 0b00001101#8 = .confirm ∧ decodeIdle 0b01101001#8 = .stageToggle ∧
    decodeIdle 0b01101110#8 = .stageNepp ∧ decodeIdle 0b00110000#8 = .stageNop 0x30#8 ∧
    decodeIdle 0b00111000#8 = .stageNop 0x38#8 ∧ decodeIdle 0b00001010#8 = .stageNop 0x0A#8 := by decide

theorem test_decode_entry :
    decodeEntry 0b00110000#8 = .entryDigit 0#4 ∧ decodeEntry 0b00111001#8 = .entryDigit 9#4 ∧
    decodeEntry 0b00111010#8 = .entryIgnore 0x3A#8 ∧ decodeEntry 0b00001101#8 = .entryIgnore 0x0D#8 := by decide

theorem test_decode_bitless :
    decode (.bitless .trig) = .ok .trig ∧ decode (.bitless .reset) = .ok .reset ∧
    decode (.bitless .service) = .ok .service := ⟨rfl, rfl, rfl⟩

theorem test_table_words :
    decodeTableWord 16 0x1003 = some (.apply 3#3) ∧ decodeTableWord 16 0x1108 = none ∧
    decodeTableWord 8 0x6E = some .stageNepp ∧ decodeTableWord 8 0x39 = some (.entryDigit 9#4) ∧
    decodeTableWord 0 0 = none := by decide

/-! The output decoder and the port -/

/-- O1 to O7. -/
theorem test_apply_pins :
    nextHas (issuePort 0x1001#16 start) (·.pins = 0x00#5) ∧ nextHas (issuePort 0x1002#16 start) (·.pins = 0x01#5) ∧
    nextHas (issuePort 0x1003#16 start) (·.pins = 0x06#5) ∧ nextHas (issuePort 0x1004#16 start) (·.pins = 0x07#5) ∧
    nextHas (issuePort 0x1005#16 start) (·.pins = 0x18#5) ∧ nextHas (issuePort 0x1006#16 start) (·.pins = 0x19#5) ∧
    nextHas (issuePort 0x1007#16 start) (·.pins = 0x1E#5) := by decide

/-- O11: APPLY leaves STATE. -/
theorem test_apply_keeps_state : nextHas (issuePort 0x1006#16 start) (·.state = 2#3) = true := by decide

/-- The pins of O2 at the pin: Left-1 only, and the opposite level with ACTIVE_HIGH false (40_output_decoder.md R106). -/
theorem test_pin_levels : pinIsHigh true 0x01#5 0 = true ∧ pinIsHigh true 0x01#5 1 = false ∧ pinIsHigh false 0x01#5 0 = false := by
  decide

/-- Q2: WRSTATE leaves PINS and NTRIG. -/
theorem test_wrstate :
    nextHas (issuePort 0x2005#16 start) (fun t => t.state = 5#3 ∧ t.pins = 0x01#5 ∧ t.ntrig = 4) = true := by decide

/-- Q3 and Q4. -/
theorem test_wrnepp :
    nextHas (issuePort 0x302A#16 start) (fun t => t.nepp = 42#8 ∧ t.ntrig = 4) ∧
    nextHas (issuePort 0x30FF#16 start) (·.nepp = 255#8) := by decide

/-- Q5 and Q24: PEND stays. -/
theorem test_wrreact :
    nextHas (issuePort 0x4000#16 start) (fun t => t.react = 0#1 ∧ t.pend = 0#1) ∧
    nextHas (issuePort 0x4001#16 { start with react := 0#1, pend := 1#1 })
      (fun t => t.react = 1#1 ∧ serviceEnabled t = true) := by decide

/-- Q6. -/
theorem test_wrline : nextHas (issuePort 0x5001#16 start) (·.line = 1#1) = true := by decide

/-- Q7 to Q13. -/
theorem test_reads :
    nextHas (issuePort 0x8000#16 start) (·.portData = 2) ∧ nextHas (issuePort 0x9000#16 start) (·.portData = 1) ∧
    nextHas (issuePort 0xA000#16 start) (·.portData = 4) ∧ nextHas (issuePort 0xB000#16 start) (·.portData = 1) ∧
    nextHas (issuePort 0xC000#16 start) (·.portData = 0) ∧ nextHas (issuePort 0xD000#16 start) (·.portData = 1) ∧
    nextHas (issuePort 0xE000#16 start) (·.portData = 0) := by decide

/-- Q14 and Q15. -/
theorem test_state_range :
    faults (issuePort 0x1000#16 start) (.stateRange 0x1000#16) ∧
    faults (issuePort 0x2000#16 start) (.stateRange 0x2000#16) := by decide

/-- Q16 to Q18. -/
theorem test_reserved_op :
    faults (issuePort 0x0000#16 start) (.reservedOp 0x0000#16) ∧
    faults (issuePort 0x6123#16 start) (.reservedOp 0x6123#16) ∧
    faults (issuePort 0x7000#16 start) (.reservedOp 0x7000#16) ∧
    faults (issuePort 0xF000#16 start) (.reservedOp 0xF000#16) := by decide

/-- Q19 to Q23. -/
theorem test_reserved_bits :
    faults (issuePort 0x1108#16 start) (.reservedBits 0x1108#16) ∧
    faults (issuePort 0x1008#16 start) (.reservedBits 0x1008#16) ∧
    faults (issuePort 0x2800#16 start) (.reservedBits 0x2800#16) ∧
    faults (issuePort 0x4002#16 start) (.reservedBits 0x4002#16) ∧
    faults (issuePort 0x8001#16 start) (.reservedBits 0x8001#16) := by decide

/-! The trigger latch and the input stage -/

/-- T1 and T2. -/
theorem test_trig_latches :
    nextHas (exec .trig start) (fun t => t.pend = 1#1 ∧ serviceEnabled t = true) ∧
    nextHas (exec .trig { start with pend := 1#1 }) (·.pend = 1#1) := by decide

/-- T3 and T4. -/
theorem test_trig_while_disabled :
    nextHas (exec .trig { start' .counter 16 false with react := 0#1 }) (·.pend = 0#1) ∧
    nextHas (exec .trig { start' .counter 16 true with react := 0#1 })
      (fun t => t.pend = 1#1 ∧ serviceEnabled t = false) := by decide

/-- 41_trigger_counter.md R110: a level that has reached the last stage, against EDGE_PREV. -/
theorem test_sample_edge :
    nextHas (runEvent .sample { start with sync := [true, false], edgePrev := false })
      (fun t => t.sync = [false, true] ∧ t.edgePrev = true ∧ t.pend = 1#1) ∧
    nextHas (runEvent .sample { start with sync := [true, true], edgePrev := true, trigIn := true })
      (fun t => t.sync = [true, true] ∧ t.pend = 0#1) := by decide

/-- 10_state.md R38: the environment drives TRIG_IN; the block's state is as before. -/
theorem test_level :
    nextHas (step { start with sched := [.level true] })
      (fun t => t.trigIn = true ∧ t.sync = [false, false] ∧ t.edgePrev = false ∧ t.pend = 0#1) = true := by decide

/-! SERVICE -/

/-- V1 and V2. -/
theorem test_service_threshold :
    nextHas (exec .service (armed .counter 16 2#3 3#8 0 0#1))
      (fun t => t.ntrig = 1 ∧ t.state = 2#3 ∧ t.pend = 0#1 ∧ t.txq = [0x08#8, 0x08#8, 0x08#8, 0x6E#8, 0x31#8, 0x0A#8]) ∧
    nextHas (exec .service (armed .counter 16 2#3 3#8 2 0#1))
      (fun t => t.ntrig = 0 ∧ t.state = 3#3 ∧ t.pins = 0x06#5 ∧ t.pend = 0#1) := by decide

/-- V4: the bytes as the vector lists them. -/
theorem test_service_wraps_and_closes_the_line :
    nextHas (exec .service (armed .counter 16 7#3 3#8 2 1#1)) (fun t => t.ntrig = 0 ∧ t.state = 1#3 ∧ t.pins = 0x00#5 ∧
      t.line = 0#1 ∧ t.txq = [0x0A#8, 0x73#8, 0x74#8, 0x61#8, 0x74#8, 0x65#8, 0x20#8, 0x31#8, 0x0A#8, 0x08#8, 0x08#8,
        0x08#8, 0x6E#8, 0x30#8, 0x0A#8]) = true := by decide

/-- V5 to V7: the zero threshold, the wrap and the equality. -/
theorem test_service_count :
    nextHas (exec .service (armed .counter 16 2#3 0#8 5 0#1)) (fun t => t.ntrig = 6 ∧ t.state = 2#3) ∧
    nextHas (exec .service (armed .counter 16 3#3 0#8 0xFFFF 0#1)) (fun t => t.ntrig = 0 ∧ t.state = 4#3) ∧
    nextHas (exec .service (armed .counter 16 2#3 5#8 9 0#1)) (fun t => t.ntrig = 10 ∧ t.state = 2#3) := by decide

/-- V9 and V10. -/
theorem test_service_legacy :
    nextHas (exec .service (armed .legacy 16 2#3 3#8 2 0#1))
      (fun t => t.ntrig = 3 ∧ t.nepp = 0#8 ∧ t.state = 3#3 ∧ t.pins = 0x06#5) ∧
    nextHas (exec .service (armed .legacy 16 3#3 0#8 3 0#1))
      (fun t => t.ntrig = 4 ∧ t.nepp = 0#8 ∧ t.state = 3#3) := by decide

/-- V11, V13 and V14: the state draw 0 and the 8-bit count. -/
theorem test_service_corners :
    nextHas (exec .service (armed .counter 16 0#3 1#8 0 0#1)) (fun t => t.state = 1#3 ∧ t.pins = 0x00#5) ∧
    nextHas (exec .service (armed .counter 8 5#3 0#8 255 0#1)) (fun t => t.ntrig = 0 ∧ t.state = 6#3) ∧
    nextHas (exec .service (armed .counter 8 5#3 200#8 250 0#1)) (fun t => t.ntrig = 251 ∧ t.state = 5#3) := by decide

/-- V16 and V17: no advance leaves LINE; with REACT = 0 nothing is taken. -/
theorem test_service_held :
    nextHas (exec .service (armed .counter 16 1#3 2#8 0 1#1)) (fun t => t.ntrig = 1 ∧ t.line = 1#1) ∧
    nextHas (exec .service { armed .counter 16 1#3 2#8 0 1#1 with react := 0#1 })
      (fun t => t.ntrig = 0 ∧ t.pend = 1#1 ∧ t.txq = []) := by decide

/-! Messages, byte for byte from 30_encoding.md R80 -/

/-- "state 3" and "state was set to 3" with their newlines. -/
theorem test_msg_state :
    msgStatus 3 = [0x73#8, 0x74#8, 0x61#8, 0x74#8, 0x65#8, 0x20#8, 0x33#8, 0x0A#8] ∧
    msgStateSet 3 = [0x73#8, 0x74#8, 0x61#8, 0x74#8, 0x65#8, 0x20#8, 0x77#8, 0x61#8, 0x73#8, 0x20#8, 0x73#8, 0x65#8,
      0x74#8, 0x20#8, 0x74#8, 0x6F#8, 0x20#8, 0x33#8, 0x0A#8] := by decide

/-- "I DON'T react to triggers!" and "I DO react to triggers" with their newlines. -/
theorem test_msg_react :
    msgReactOff = [0x49#8, 0x20#8, 0x44#8, 0x4F#8, 0x4E#8, 0x27#8, 0x54#8, 0x20#8, 0x72#8, 0x65#8, 0x61#8, 0x63#8,
      0x74#8, 0x20#8, 0x74#8, 0x6F#8, 0x20#8, 0x74#8, 0x72#8, 0x69#8, 0x67#8, 0x67#8, 0x65#8, 0x72#8, 0x73#8, 0x21#8,
      0x0A#8] ∧
    msgReactOn = [0x49#8, 0x20#8, 0x44#8, 0x4F#8, 0x20#8, 0x72#8, 0x65#8, 0x61#8, 0x63#8, 0x74#8, 0x20#8, 0x74#8, 0x6F#8,
      0x20#8, 0x74#8, 0x72#8, 0x69#8, 0x67#8, 0x67#8, 0x65#8, 0x72#8, 0x73#8, 0x0A#8] := by decide

/-- "Please type desired n_epp: " without and "n_epp was set to 42" with a newline. -/
theorem test_msg_nepp :
    msgPrompt = [0x50#8, 0x6C#8, 0x65#8, 0x61#8, 0x73#8, 0x65#8, 0x20#8, 0x74#8, 0x79#8, 0x70#8, 0x65#8, 0x20#8, 0x64#8,
      0x65#8, 0x73#8, 0x69#8, 0x72#8, 0x65#8, 0x64#8, 0x20#8, 0x6E#8, 0x5F#8, 0x65#8, 0x70#8, 0x70#8, 0x3A#8, 0x20#8] ∧
    msgNeppSet 42 = [0x6E#8, 0x5F#8, 0x65#8, 0x70#8, 0x70#8, 0x20#8, 0x77#8, 0x61#8, 0x73#8, 0x20#8, 0x73#8, 0x65#8,
      0x74#8, 0x20#8, 0x74#8, 0x6F#8, 0x20#8, 0x34#8, 0x32#8, 0x0A#8] := by decide

/-- The decimal spellings of 0, 9, 10 and 65535 (00_scope.md R10). -/
theorem test_dec :
    dec 0 = [0x30#8] ∧ dec 9 = [0x39#8] ∧ dec 10 = [0x31#8, 0x30#8] ∧
    dec 65535 = [0x36#8, 0x35#8, 0x35#8, 0x33#8, 0x35#8] := by
  refine ⟨rfl, rfl, rfl, ?_⟩
  simp [dec, decDigits, digitByte]

/-! The serial host -/

/-- S1, its first byte: PDS and what follows (PROG1 line 4 gives WRLINE 1 as 0x5001). -/
theorem test_stage_state :
    nextHas (exec (.stageState 3#3) start) (fun t => t.pds = some 3#3 ∧
      t.hostPos.map (·.act) = [.tx 0x08#8, .tx 0x33#8, .port 0x5001#16]) = true := by decide

/-- PROG1 line 4: the words of CONFIRM with a staged 6; and S3: nothing staged. -/
theorem test_confirm_state :
    nextHas (exec .confirm { start with pds := some 6#3 })
      (fun t => t.hostPos.map (·.act) = [.port 0x1006#16, .port 0x2006#16, .port 0xC000#16, .port 0x8000#16]) ∧
    nextHas (exec .confirm start) (fun t => t = start) := by decide

/-- S11: a staged digit comes before a staged instruction; PROG3 line 4: the toggle reads REACT. -/
theorem test_confirm_order :
    nextHas (exec .confirm { start with pds := some 3#3, pi := some .toggleTriggerReaction })
      (fun t => t.hostPos.map (·.act) = [.port 0x1003#16, .port 0x2003#16, .port 0xC000#16, .port 0x8000#16]) ∧
    nextHas (exec .confirm { start with pi := some .toggleTriggerReaction })
      (fun t => t.hostPos.map (·.act) = [.port 0xB000#16]) := by decide

/-- S4 and S10: 'i' stages the toggle, clears PDS and echoes. -/
theorem test_stage_toggle :
    nextHas (exec .stageToggle { start with pds := some 3#3 }) (fun t => t.pds = none ∧
      t.pi = some .toggleTriggerReaction ∧ t.hostPos.map (·.act) = [.tx 0x69#8]) = true := by decide

/-- S5: 'n' stages the threshold entry. -/
theorem test_stage_nepp :
    nextHas (exec .stageNepp start) (fun t => t.pi = some .setPulseThreshold ∧ t.hostPos.map (·.act) = [.tx 0x6E#8]) = true := by
  decide

/-- S16: another byte keeps PI; S13: it clears PDS and LINE stays. -/
theorem test_stage_nop :
    nextHas (exec (.stageNop 0x78#8) { start with pi := some .toggleTriggerReaction }) (·.pi = some .toggleTriggerReaction) ∧
    nextHas (exec (.stageNop 0x0A#8) { start with pds := some 3#3, line := 1#1 })
      (fun t => t.pds = none ∧ t.line = 1#1 ∧ t.hostPos.map (·.act) = [.tx 0x0A#8]) := by decide

/-- S5 and S8: the tens digit; then the ones digit writes 42, as WRNEPP 0x302A. -/
theorem test_entry_digit :
    nextHas (exec (.entryDigit 4#4) { start with mode := .awaitingDigitEntry }) (fun t => t.tens = some 4#4 ∧ t.hostPos = []) ∧
    nextHas (exec (.entryDigit 2#4) { start with mode := .awaitingDigitEntry, tens := some 4#4 })
      (fun t => t.hostPos.head?.map (·.act) = some (.port 0x302A#16) ∧
        t.hostPos.getLast?.map (·.act) = some (.port 0x4001#16)) := by decide

/-- S9: '\r' is ignored in entry. -/
theorem test_entry_ignore :
    nextHas (exec (.entryIgnore 0x0D#8) { start with mode := .awaitingDigitEntry, tens := some 4#4 })
      (fun t => t.tens = some 4#4 ∧ t.txq = [] ∧ t.hostPos = []) = true := by decide

/-- The pseudo-instructions (30_encoding.md R83), with the bytes of PROG1 lines 3 and 4 and of PROG3 line 4. -/
theorem test_pseudo :
    asmSetnepp 0#4 2#4 = [.rx 0x6E#8, .rx 0x0D#8, .rx 0x30#8, .rx 0x32#8] ∧ asmSetstate 6#3 = [.rx 0x36#8, .rx 0x0D#8] ∧
    asmToggle = [.rx 0x69#8, .rx 0x0D#8] ∧ asmTrign 2 = [.trig, .svc, .trig, .svc] := by decide

/-! RESET, BOOT and the step -/

/-- RST1, with draws: the values of 70_reset_and_hazards.md R251 and the draws themselves. -/
theorem test_reset_values :
    let t := resetWith ⟨4#3, 0x15#5, [true, false], true⟩ { start with nepp := 9#8, rxq := [0x33#8], txq := [0x33#8], line := 1#1 };
    t.state = 4#3 ∧ t.pins = 0x15#5 ∧ t.nepp = 1#8 ∧ t.ntrig = 0 ∧ t.react = 1#1 ∧ t.line = 0#1 ∧ t.rxq = [] ∧ t.txq = [] := by
  decide

/-- RST2, its first step: BOOT reads STATE (draw 0) and "state 0\n" is what comes next. -/
theorem test_boot :
    nextHas (step State.reset) (fun t => t.portData = 0 ∧ t.hostPos.map (·.act) =
      [.tx 0x73#8, .tx 0x74#8, .tx 0x61#8, .tx 0x74#8, .tx 0x65#8, .tx 0x20#8, .tx 0x30#8, .tx 0x0A#8]) = true := by decide

/-- A placed word is the one the next step runs. -/
theorem test_fetch_word :
    nextHas (step (State.reset.withFetchWord 16 0x1003)) (·.pins = 0x06#5) ∧
    nextHas (step (State.reset.withFetchWord 8 0x33)) (·.pds = some 3#3) ∧
    nextHas (step (State.reset.withFetchWord 8 0x30)) (·.tens = some 0#4) ∧
    nextHas (step (State.reset.withFetchWord 8 0x6E)) (·.pi = some .setPulseThreshold) := by decide

/-- Q20 by a step of a port-list host: the reserved word faults. -/
theorem test_step_reserved_word :
    faults (step { start with portq := [0x1008#16, 0x8000#16], sched := [.host] }) (.reservedBits 0x1008#16) = true := by
  decide

/-- PROG4, schedule A: SERVICE between APPLY 3 and WRSTATE 3 shows state 6 at the pins. -/
theorem test_race_service :
    nextHas (step { armed .counter 16 5#3 1#8 0 1#1 with pins := 0x06#5, sched := [.svc] })
      (fun t => t.state = 6#3 ∧ t.pins = 0x19#5 ∧ t.line = 0#1) = true := by decide

/-- HOSTRUN stays in the schedule until the host waits (30_encoding.md R82). -/
theorem test_hostrun :
    nextHas (step { start with rxq := [0x33#8], sched := [.hostRun] }) (fun t => t.pds = some 3#3 ∧ t.sched = [.hostRun]) ∧
    nextHas (step { start with sched := [.hostRun] }) (·.sched = []) := by decide

/-! Values that meet the hypotheses of each statement -/

theorem witness_DecodeOfEncodeIsIdentity :
    (Instr.apply 7#3).wellFormed = true ∧ (Instr.stageNop 0x38#8).wellFormed = true ∧
    (Instr.entryDigit 9#4).wellFormed = true ∧ (Instr.entryIgnore 0x2F#8).wellFormed = true := by decide

theorem witness_DecodedWordReencodes :
    decode (.port 0x30FF#16) = .ok (.wrnepp 255#8) ∧ decode (.serEntry 0x39#8) = .ok (.entryDigit 9#4) := ⟨rfl, rfl⟩

theorem witness_ReservedPortWordsFaultInOrder :
    HasReservedOp 0x6123#16 ∧ (¬ HasReservedOp 0x1108#16 ∧ HasReservedBits 0x1108#16) ∧
    (¬ HasReservedOp 0x2000#16 ∧ ¬ HasReservedBits 0x2000#16 ∧ HasStateOutOfRange 0x2000#16) ∧
    (¬ HasReservedOp 0x1001#16 ∧ ¬ HasReservedBits 0x1001#16 ∧ ¬ HasStateOutOfRange 0x1001#16) := by
  unfold HasReservedOp HasReservedBits HasStateOutOfRange zeroMask; decide

theorem witness_FaultCodesAreTheLowestThatHold :
    issuePort 0x6123#16 start = .fault (.reservedOp 0x6123#16) ∧ issuePort 0x1108#16 start = .fault (.reservedBits 0x1108#16) ∧
    issuePort 0x1000#16 start = .fault (.stateRange 0x1000#16) := ⟨rfl, rfl, rfl⟩

theorem witness_IdleBytesAreClassedInOrder :
    (0x31 ≤ (0x37#8).toNat ∧ (0x37#8).toNat ≤ 0x37) ∧ (0x31 ≤ (0x31#8).toNat ∧ (0x31#8).toNat ≤ 0x37) ∧
    (¬ (0x31 ≤ (0x38#8).toNat ∧ (0x38#8).toNat ≤ 0x37) ∧ 0x38#8 ≠ 0x0D#8 ∧ 0x38#8 ≠ 0x69#8 ∧ 0x38#8 ≠ 0x6E#8) := by decide

theorem witness_EntryBytesAreClassed :
    (0x30 ≤ (0x30#8).toNat ∧ (0x30#8).toNat ≤ 0x39) ∧ (0x30 ≤ (0x39#8).toNat ∧ (0x39#8).toNat ≤ 0x39) ∧
    ¬ (0x30 ≤ (0x3A#8).toNat ∧ (0x3A#8).toNat ≤ 0x39) ∧ ¬ (0x30 ≤ (0x2F#8).toNat ∧ (0x2F#8).toNat ≤ 0x39) := by decide

/-- For the decoder, APPLY, its idempotence and WRSTATE. -/
theorem witness_state_operands : 1#3 ≠ 0#3 ∧ 7#3 ≠ 0#3 := by decide

theorem witness_PortCannotWriteCountOrLatch :
    (∃ t, issuePort 0x1003#16 start = .next t) ∧
    (∃ t, exec .service (armed .counter 16 2#3 3#8 2 0#1) = .next t ∧ t.ntrig ≠ 2) ∧ Instr.service ≠ .reset :=
  ⟨⟨_, rfl⟩, ⟨_, rfl, by decide⟩, by decide⟩

theorem witness_TrigSetsPendWhenLatched :
    start.react = 1#1 ∧ (start' .counter 16 true).cfg.latchWhileDisabled = true ∧
    ({ start with react := 0#1 } : State).react ≠ 1#1 ∧ start.cfg.latchWhileDisabled = false := by decide

theorem witness_TrigWhilePendingIsMerged : (armed .counter 16 2#3 3#8 2 0#1).pend = 1#1 ∧ start.react = 1#1 := by decide

theorem witness_EdgesWhileDisabledFollowTheParameter :
    (let s : State := { start' .counter 16 false with react := 0#1 };
      s.react = 0#1 ∧ s.cfg.latchWhileDisabled = false) ∧
    (let s : State := { start' .counter 16 true with react := 0#1 };
      s.react = 0#1 ∧ s.cfg.latchWhileDisabled = true) := by decide

/-- Both clauses of the sample: a rise and none. -/
theorem witness_SampleShiftsAndDetectsARise :
    start.sync ≠ [] ∧
    (let t := sampleInput { start with sync := [true, false], edgePrev := false }; t.edgePrev = true) ∧
    (let t := sampleInput start; ¬ (t.edgePrev = true ∧ start.edgePrev = false)) := by decide

theorem witness_ServiceIsHeldUnlessEnabled :
    start.pend ≠ 1#1 ∧ ({ armed .counter 16 2#3 3#8 2 0#1 with react := 0#1 } : State).react ≠ 1#1 := by decide

theorem witness_ServiceBelowThresholdOnlyCounts :
    let s := armed .counter 16 2#3 3#8 0 0#1;
    s.pend = 1#1 ∧ s.react = 1#1 ∧ ¬ NextServiceAdvances s := by decide

/-- Also for AdvanceDrivesPinsOfTheNewState and the second clause of StateStaysInOneToSeven. -/
theorem witness_ServiceAdvancesInCounterMode :
    let s := armed .counter 16 3#3 0#8 0xFFFF 1#1;
    s.pend = 1#1 ∧ s.react = 1#1 ∧ NextServiceAdvances s ∧ s.cfg.threshMode = .counter ∧ serviceEnabled s = true ∧
      ∃ t, exec .service s = .next t := ⟨rfl, rfl, by decide, rfl, rfl, ⟨_, rfl⟩⟩

/-- Also for LegacyAdvanceStallsUntilTheWrap. -/
theorem witness_ServiceAdvancesInLegacyMode :
    let s := armed .legacy 16 2#3 3#8 2 0#1;
    s.cfg.wf ∧ s.pend = 1#1 ∧ s.react = 1#1 ∧ NextServiceAdvances s ∧ s.cfg.threshMode = .legacy := by decide

theorem witness_SuccessorCyclesThroughSeven : (6#3).toNat + 1 ≤ 7 ∧ ¬ (7#3).toNat + 1 ≤ 7 := by decide

theorem witness_ServiceClearsPendUntilTheNextTrig :
    serviceEnabled (armed .counter 16 2#3 3#8 2 0#1) = true ∧
    (∃ t, step { start with sched := [.trig] } = .next t ∧ start.pend = 0#1 ∧ t.pend ≠ 0#1) ∧
    (∃ t, step { start with sync := [true, false], sched := [.sample] } = .next t ∧ start.pend = 0#1 ∧ t.pend ≠ 0#1 ∧
      start.edgePrev = false ∧ t.edgePrev = true) :=
  ⟨by decide, ⟨_, rfl, by decide, by decide⟩, ⟨_, rfl, by decide, by decide, by decide, by decide⟩⟩

/-- In both modes, at the greatest count. -/
theorem witness_NextAdvanceComesAfterTheDistance :
    (let s := armed .counter 8 2#3 255#8 255 0#1;
      s.cfg.wf ∧ s.ntrig < 2 ^ s.cfg.wCnt ∧ s.react = 1#1 ∧ 255 < pulsesToAdvance s.cfg.wCnt s.ntrig s.nepp.toNat ∧
        s.cfg.threshMode = .counter) ∧
    (let s := armed .legacy 16 2#3 0#8 0xFFFF 0#1;
      s.cfg.wf ∧ s.ntrig < 2 ^ s.cfg.wCnt ∧ s.react = 1#1 ∧ 0 < pulsesToAdvance s.cfg.wCnt s.ntrig s.nepp.toNat ∧
        s.cfg.threshMode = .legacy) := by decide

theorem witness_SteadyStateAdvancesEveryThresholdPulses :
    let s := armed .counter 16 2#3 1#8 0 0#1;
    s.cfg.wf ∧ s.react = 1#1 ∧ s.ntrig = 0 ∧ 1 ≤ s.nepp.toNat ∧ 0 < s.nepp.toNat ∧ s.nepp = 1#8 ∧
      s.cfg.threshMode = .counter := by decide

/-- The threshold at the count itself, and below it. -/
theorem witness_ThresholdNotAboveCountWaitsForTheWrap :
    (let s := armed .counter 8 2#3 9#8 255 0#1;
      s.cfg.wf ∧ s.ntrig < 2 ^ s.cfg.wCnt ∧ s.react = 1#1 ∧ (255#8).toNat ≤ s.ntrig) ∧
    (let s := armed .legacy 16 2#3 9#8 10 0#1;
      s.cfg.wf ∧ s.ntrig < 2 ^ s.cfg.wCnt ∧ s.react = 1#1 ∧ (0#8).toNat ≤ s.ntrig) := by decide

theorem witness_ZeroThresholdAdvancesOncePerWrap :
    let s := armed .counter 16 2#3 0#8 0xFFFF 0#1;
    s.cfg.wf ∧ s.ntrig < 2 ^ s.cfg.wCnt ∧ s.react = 1#1 ∧ s.cfg.threshMode = .counter ∧ s.nepp = 0#8 ∧
      0 < 2 ^ s.cfg.wCnt - s.ntrig := by decide

theorem witness_ResetGivesTheTableValues : start.cfg.host = .serial := by decide

theorem witness_BootPrintsTheStateOnce : State.reset.hostPos = bootScript := rfl

theorem witness_ConfirmSetsTheStagedState :
    let s : State := { start with pds := some 7#3, line := 1#1 };
    7#3 ≠ 0#3 ∧ s.pds = some 7#3 := by decide

/-- For the toggle, the start of entry, and nothing staged. -/
theorem witness_confirm_branches :
    (let s : State := { start with pi := some .toggleTriggerReaction };
      s.pds = none ∧ s.pi = some .toggleTriggerReaction) ∧
    (let s : State := { start with pi := some .setPulseThreshold }; s.pds = none ∧ s.pi = some .setPulseThreshold) ∧
    (start.pds = none ∧ start.pi = none ∧ start.hostPos = []) := by decide

/-- For the first and the second digit. -/
theorem witness_entry_digits :
    (start.tens = none ∧ start.hostPos = []) ∧
    (let s : State := { start with mode := .awaitingDigitEntry, tens := some 9#4 };
      (9#4).toNat ≤ 9 ∧ s.tens = some 9#4) := by decide

theorem witness_EntryIgnoresOtherBytes :
    let s : State := { start with mode := .awaitingDigitEntry, rxq := [0x3A#8] };
    s.mode = .awaitingDigitEntry ∧ s.hostPos = [] ∧ s.portq = [] ∧ s.cfg.host = .serial ∧ s.rxq = [0x3A#8] ∧
      ¬ (0x30 ≤ (0x3A#8).toNat ∧ (0x3A#8).toNat ≤ 0x39) := by decide

/-- The host's clauses of the step: a word that decodes, a word that does not, and a byte. -/
theorem witness_StepRunsTheDecodedInstruction :
    (let s : State := { start with portq := [0x1003#16], sched := [.host] };
      s.sched = [.host] ∧ s.hostPos = [] ∧ s.portq = [0x1003#16]) ∧ decodePort 0x1003#16 = .ok (.apply 3#3) ∧
    (let s : State := { start with portq := [0x1108#16], sched := [.host] };
      s.sched = [.host] ∧ s.hostPos = [] ∧ s.portq = [0x1108#16]) ∧
    decodePort 0x1108#16 = .error (.reservedBits 0x1108#16) ∧
    (let s : State := { start with rxq := [0x33#8], sched := [.host] };
      s.sched = [.host] ∧ s.hostPos = [] ∧ s.portq = [] ∧ s.cfg.host = .serial ∧ s.rxq = [0x33#8]) :=
  ⟨by decide, rfl, by decide, rfl, by decide⟩

/-- Its clauses over the other entries, HOSTRUN while the host waits and while it does not. -/
theorem witness_StepRunsTheDecodedInstruction_entries :
    ({ start with sched := [.trig] } : State).sched = [.trig] ∧ ({ start with sched := [.reset] } : State).sched = [.reset] ∧
    ({ start with sched := [.svc] } : State).sched = [.svc] ∧ ({ start with sched := [.rx 0#8] } : State).sched = [.rx 0#8] ∧
    ({ start with sched := [.level true] } : State).sched = [.level true] ∧
    ({ start with sched := [.sample] } : State).sched = [.sample] ∧
    (let s : State := { start with sched := [.hostRun] }; s.sched = [.hostRun] ∧ hostWaits s = true) ∧
    (let s : State := { State.reset with sched := [.hostRun] }; s.sched = [.hostRun] ∧ hostWaits s = false) := by decide

theorem witness_StepRunsTheNextMicroStep :
    (let s : State := { start with hostPos := letterScript 0x69#8, sched := [.host] };
      s.sched = [.host] ∧ s.hostPos = microTx 0x69#8 .nothing :: [] ∧ (microTx 0x69#8 .nothing).act = .tx 0x69#8) ∧
    (let s : State := { start with hostPos := bootScript, sched := [.host] };
      s.hostPos = microPort .rdstate (.printValue statePrefix) :: [] ∧
        (microPort .rdstate (.printValue statePrefix)).act = .port 0x8000#16 ∧ decodePort 0x8000#16 = .ok .rdstate ∧
        ∃ t, exec .rdstate { s with sched := [], hostPos := [] } = .next t) ∧
    (let m : HostMicro := { act := .port 0x1008#16, andThen := .nothing };
      let s : State := { start with hostPos := [m], sched := [.host] };
      s.sched = [.host] ∧ s.hostPos = m :: [] ∧ m.act = .port 0x1008#16 ∧
        issuePort 0x1008#16 { s with sched := [], hostPos := [] } = .fault (.reservedBits 0x1008#16)) :=
  ⟨by decide, ⟨rfl, rfl, rfl, ⟨_, rfl⟩⟩, rfl, rfl, rfl, rfl⟩

theorem witness_UnscheduledStepRunsAnEnabledAgent :
    (let s := armed .counter 16 2#3 3#8 2 0#1; s.sched = [] ∧ serviceEnabled s = true ∧ hostWaits s = true) ∧
    (State.reset.sched = [] ∧ serviceEnabled State.reset = false) ∧
    (let s : State := { armed .counter 16 2#3 3#8 2 0#1 with rxq := [0x33#8] };
      s.sched = [] ∧ serviceEnabled s = true ∧ hostWaits s = false) ∧ runOver start = true := by decide

theorem witness_EveryResetMeetsTheInvariant :
    start.cfg.wf ∧ (⟨7#3, 0x1F#5, [true, true], true⟩ : ResetDraws).sync.length = start.cfg.syncStages := by decide

/-- Also for SerialHostNeverStops and NoStepChangesTheParameters. -/
theorem witness_StepKeepsTheInvariant :
    State.reset.Inv ∧ State.reset.cfg.host = .serial ∧ ∃ t, step State.reset = .next t := ⟨by decide, rfl, ⟨_, rfl⟩⟩

theorem witness_StateStaysInOneToSeven :
    (∃ t, exec (.wrstate 7#3) start = .next t) ∧ 1 ≤ start.state.toNat ∧ NotReset start ∧ ∃ t, step start = .next t :=
  ⟨⟨_, rfl⟩, by decide, by decide, ⟨_, rfl⟩⟩

/-- Also for TransmitQueueOnlyGrows: an APPLY and a transmission. -/
theorem witness_PinsAreNeverAPartialPair :
    (let s : State := { start with portq := [0x1007#16], sched := [.host] };
      NotReset s ∧ PairedPins s.pins ∧ ∃ t, step s = .next t ∧ t.pins ≠ s.pins) ∧
    (let s : State := { start with hostPos := letterScript 0x69#8, sched := [.host] };
      NotReset s ∧ (∃ t, step s = .next t ∧ t.txq ≠ s.txq) ∧ ∃ t, hostStep s = .next t) :=
  ⟨⟨by decide, by decide, ⟨_, rfl, by decide⟩⟩, by decide, ⟨_, rfl, by decide⟩, ⟨_, rfl⟩⟩

theorem witness_NothingIsCountedWhileDisabled :
    let s : State := { armed .counter 16 2#3 3#8 2 0#1 with react := 0#1, sched := [.svc] };
    s.react = 0#1 ∧ NotReset s ∧ (∃ t, step s = .next t) ∧ s.sched.head? = some .svc :=
  ⟨rfl, by decide, ⟨_, rfl⟩, rfl⟩

theorem witness_OnlyTheHostWritesItsRegisters :
    (let s : State := { armed .counter 16 2#3 3#8 2 0#1 with sched := [.svc] };
      (∃ t, step s = .next t) ∧ s.sched.head? ≠ none ∧ s.sched.head? ≠ some .host ∧ s.sched.head? ≠ some .hostRun ∧
        NotReset s ∧ s.cfg.threshMode = .counter) ∧
    (let s : State := { start with sched := [.reset] };
      (∃ t, step s = .next t) ∧ ∀ l, s.sched.head? ≠ some (.level l)) :=
  ⟨⟨⟨_, rfl⟩, by decide, by decide, by decide, by decide, rfl⟩, ⟨_, rfl⟩, by simp⟩

/-- An RX entry, and without one a step that leaves RXQ, a scheduled and an unscheduled step that take its head. -/
theorem witness_ReceiveQueueIsFirstInFirstOut :
    (let s : State := { start with rxq := [0x0D#8], sched := [.rx 0x33#8] };
      NotReset s ∧ s.sched.head? = some (.rx 0x33#8) ∧ ∃ t, step s = .next t ∧ t.rxq = [0x0D#8, 0x33#8]) ∧
    (NotReset start ∧ (∀ b, start.sched.head? ≠ some (.rx b)) ∧ ∃ t, step start = .next t ∧ t.rxq = start.rxq) ∧
    (let s : State := { start with rxq := [0x33#8, 0x0D#8], sched := [.host] };
      NotReset s ∧ (∀ b, s.sched.head? ≠ some (.rx b)) ∧ ∃ t, step s = .next t ∧ s.rxq = 0x33#8 :: t.rxq) ∧
    (let s : State := { start with rxq := [0x33#8] }; ∃ t, step s = .next t ∧ s.rxq = 0x33#8 :: t.rxq) :=
  ⟨⟨by decide, by decide, ⟨_, rfl, rfl⟩⟩, ⟨by decide, by decide, ⟨_, rfl, rfl⟩⟩, ⟨by decide, by simp, ⟨_, rfl, rfl⟩⟩,
    ⟨_, rfl, rfl⟩⟩

/-- Entry goes on at a digit, and ends with the last micro-step of the second digit. -/
theorem witness_EntryEndsOnlyWithItsSecondDigit :
    (let s : State := { start with mode := .awaitingDigitEntry, react := 0#1, rxq := [0x34#8] };
      s.Inv ∧ s.mode = .awaitingDigitEntry ∧ NotReset s ∧ ∃ t, step s = .next t ∧ t.mode = .awaitingDigitEntry) ∧
    (let s : State := { start with
        mode := .awaitingDigitEntry, react := 0#1, tens := some 4#4, hostPos := [microPort (.wrreact 1#1) .leaveEntry] };
      s.Inv ∧ s.mode = .awaitingDigitEntry ∧ NotReset s ∧ ∃ t, step s = .next t ∧ t.mode = .idle) :=
  ⟨⟨by decide, rfl, by decide, ⟨_, rfl, rfl⟩⟩, by decide, rfl, by decide, ⟨_, rfl, rfl⟩⟩

/-- PROG4, schedule A. -/
theorem witness_ServiceBetweenApplyAndWrstateLeavesItsPins :
    let s : State := { armed .counter 16 5#3 1#8 0 1#1 with hostPos := (confirmStateScript 3#3).drop 1 };
    3#3 ≠ 0#3 ∧ serviceEnabled s = true ∧ NextServiceAdvances s ∧
      s.hostPos = { act := .port (portOf (.wrstate 3#3)), andThen := .clearPds } :: (confirmStateScript 3#3).drop 2 :=
  ⟨by decide, by decide, by decide, rfl⟩

end Sys2Proof.Tests
end

section
/-! PROOFS. The scope statements: what RESET leads to meets the invariant (00_scope.md R9, 70_reset_and_hazards.md R250,
R251), and dec(v) is the decimal spelling of v (00_scope.md R10). -/

namespace Sys2Proof.Machine

/-! RESET and the invariant -/

/-- Every host starts in Idle with REACT = 1 at a position its rules allow: BOOT's one word, RDSTATE, runs. -/
theorem scriptOk_hostStart (p : HostProgram) : scriptOk .idle 1#1 (hostStart p) = true := by
  cases p with
  | serial => decide
  | portList ws => rfl

/-- After RESET the serial host has no words to issue, and a port-list host no script and no mode of its own. -/
theorem hostOk_resetWith (d : ResetDraws) (s : State) : hostOk (resetWith d s) = true := by
  cases h : s.cfg.host <;> simp [hostOk, resetWith, hostStart, hostWords, h]

/-- The values of R251 meet the invariant; of the draws only the length of the chain matters. -/
theorem resetWith_inv {d : ResetDraws} {s : State} (hcfg : s.cfg.wf) (hsync : d.sync.length = s.cfg.syncStages) :
    (resetWith d s).Inv := by
  have hntrig : (resetWith d s).ntrig < 2 ^ s.cfg.wCnt := Nat.two_pow_pos _
  have hpds : (resetWith d s).pds ≠ some 0#3 := (Option.some_ne_none _).symm
  exact ⟨hcfg, hntrig, hsync, hpds, rfl, scriptOk_hostStart s.cfg.host, hostOk_resetWith d s⟩

/-- The free values of RESET hold one value per stage of the chain. -/
theorem freeDraws_sync_length (k n : Nat) : (freeDraws k n).sync.length = n := by simp [freeDraws]

/-- State.reset is what RESET leads to from itself, with every unspecified value 0. -/
theorem reset_eq_resetWith :
    State.reset = resetWith
      { state := 0#3, pins := 0#5, sync := List.replicate Config.defaultParams.syncStages false, edgePrev := false }
      State.reset := rfl

/-! The decimal spelling -/

/-- The digits of n come before those in `acc`. -/
theorem decDigits_eq_append (fuel n : Nat) (acc : List Byte) :
    decDigits fuel n acc = decDigits fuel n [] ++ acc := by
  induction fuel generalizing n acc with
  | zero => rfl
  | succ f ih =>
    by_cases h : n / 10 = 0
    · simp [decDigits, h]
    · simp only [decDigits, if_neg h]
      rw [ih _ (_ :: acc), ih _ [_], List.append_assoc, List.singleton_append]

/-- Any fuel above n gives the same digits. -/
theorem decDigits_fuel {f g n : Nat} (hf : n < f) (hg : n < g) (acc : List Byte) :
    decDigits f n acc = decDigits g n acc := by
  induction f generalizing g n acc with
  | zero => omega
  | succ f ih =>
    obtain ⟨g, rfl⟩ : ∃ k, g = k + 1 := ⟨g - 1, by omega⟩
    by_cases h : n / 10 = 0
    · simp only [decDigits, if_pos h]
    · simp only [decDigits, if_neg h]
      exact ih (by omega) (by omega) _

/-- A number below 10 is spelled by its digit. -/
theorem dec_of_lt_ten {n : Nat} (h : n < 10) : dec n = [digitByte n] := by
  simp [dec, decDigits, Nat.div_eq_of_lt h, Nat.mod_eq_of_lt h]

/-- A number from 10 on is spelled by its tens and then its ones. -/
theorem dec_of_ten_le {n : Nat} (h : 10 ≤ n) : dec n = dec (n / 10) ++ [digitByte (n % 10)] := by
  have hdiv : n / 10 ≠ 0 := by omega
  calc dec n = decDigits n (n / 10) [digitByte (n % 10)] := by simp only [dec, decDigits, if_neg hdiv]
    _ = decDigits (n / 10 + 1) (n / 10) [digitByte (n % 10)] := decDigits_fuel (by omega) (by omega) _
    _ = dec (n / 10) ++ [digitByte (n % 10)] := decDigits_eq_append ..

/-- What holds of one digit, and of a spelling with one more digit after it, holds of every spelling. -/
theorem dec_induction {P : Nat → List Byte → Prop} (one : ∀ n < 10, P n [digitByte n])
    (more : ∀ n, 10 ≤ n → P (n / 10) (dec (n / 10)) → P n (dec (n / 10) ++ [digitByte (n % 10)])) (n : Nat) :
    P n (dec n) := by
  induction n using Nat.strong_induction_on with
  | _ n ih =>
    by_cases h : n < 10
    · rw [dec_of_lt_ten h]; exact one n h
    · rw [dec_of_ten_le (by omega)]; exact more n (by omega) (ih _ (by omega))

/-- The byte of a digit is 0x30 and the digit. -/
theorem digitByte_toNat {d : Nat} (h : d < 10) : (digitByte d).toNat = 0x30 + d := by
  simp only [digitByte, BitVec.toNat_ofNat]
  omega

/-- A spelling has at least one byte. -/
theorem dec_ne_nil (n : Nat) : dec n ≠ [] := by
  have h := (dec_length n n (n.lt_succ_self.trans (Nat.lt_pow_self (by decide)))).1
  exact List.ne_nil_of_length_pos h

/-- A spelling has digits only. -/
theorem dec_digits (n : Nat) : ∀ b ∈ dec n, 0x30 ≤ b.toNat ∧ b.toNat ≤ 0x39 := by
  have digit (d : Nat) (h : d < 10) : 0x30 ≤ (digitByte d).toNat ∧ (digitByte d).toNat ≤ 0x39 := by
    rw [digitByte_toNat h]; omega
  induction n using dec_induction with
  | one n h => simpa using digit n h
  | more n _ ih =>
    intro b hb
    rcases List.mem_append.1 hb with hb | hb
    · exact ih b hb
    · rw [List.mem_singleton.1 hb]; exact digit _ (n.mod_lt (by decide))

/-- A digit after a string of digits adds its value to ten times theirs. -/
theorem decValue_append_digit (bs : List Byte) {d : Nat} (h : d < 10) :
    decValue (bs ++ [digitByte d]) = 10 * decValue bs + d := by
  simp [decValue, digitByte_toNat h]

/-- A spelling spells its number. -/
theorem decValue_dec (n : Nat) : decValue (dec n) = n := by
  induction n using dec_induction with
  | one n h => simpa [decValue] using decValue_append_digit [] h
  | more n _ ih =>
    rw [decValue_append_digit _ (n.mod_lt (by decide)), ih]
    exact Nat.div_add_mod n 10

/-- The spelling of a number other than 0 has no leading zero: every step of `dec_induction` keeps the first digit. -/
theorem dec_head_ne_zero (n : Nat) : n ≠ 0 → ∃ b, (dec n).head? = some b ∧ b ≠ 0x30#8 := by
  induction n using dec_induction with
  | one n h =>
    intro hn
    refine ⟨digitByte n, rfl, fun heq => hn ?_⟩
    have hval := digitByte_toNat h
    rw [heq] at hval
    simpa using hval
  | more n h ih =>
    intro _
    obtain ⟨b, hb, hne⟩ := ih (by omega)
    exact ⟨b, by rw [List.head?_append, hb]; rfl, hne⟩

end Sys2Proof.Machine

namespace Sys2Proof

open Machine

/-- Settles O47: State.reset is one of the states that RESET can lead to. -/
theorem resetStateMeetsTheInvariant : Obligations.ResetStateMeetsTheInvariant := by
  unfold Obligations.ResetStateMeetsTheInvariant
  rw [reset_eq_resetWith]
  exact resetWith_inv (by decide) rfl

/-- Settles O48: the free values of RESET are draws of the right length, and `resetWith_inv` holds for all of them. -/
theorem everyResetMeetsTheInvariant : Obligations.EveryResetMeetsTheInvariant := by
  intro s hcfg
  exact ⟨⟨_, rfl, resetWith_inv hcfg (freeDraws_sync_length ..)⟩, fun _ hsync => resetWith_inv hcfg hsync⟩

/-- Settles O60, by induction on the spelling, one digit at its end. -/
theorem decimalSpellingReadsBack : Obligations.DecimalSpellingReadsBack := by
  intro n
  refine ⟨dec_ne_nil n, dec_digits n, decValue_dec n, fun hhead => ?_⟩
  by_cases hn : n = 0
  · rw [hn]; rfl
  · obtain ⟨b, hb, hne⟩ := dec_head_ne_zero n hn
    rw [hb] at hhead
    exact absurd (Option.some.inj hhead) hne

end Sys2Proof
end

section
/-! PROOFS. The state and its steps (10_state.md): which agent writes which register, the invariant that every step
keeps, and what a step runs. -/

namespace Sys2Proof.Machine

variable {s t : State}

/-! The input side: PEND, the synchronizer, TRIG_IN and RXQ -/

/-- TRIG writes PEND and nothing else (41_trigger_counter.md R111). -/
theorem latchTrigger_eq (s : State) : ∃ p, latchTrigger s = { s with pend := p } := by
  unfold latchTrigger
  split
  · exact ⟨_, rfl⟩
  · exact ⟨s.pend, rfl⟩

/-- SAMPLE writes the synchronizer, EDGE_PREV and PEND, and nothing else (41_trigger_counter.md R110). -/
theorem sampleInput_eq (s : State) :
    ∃ p, sampleInput s = { s with sync := shiftSync s, edgePrev := syncOut s, pend := p } := by
  unfold sampleInput
  dsimp only
  split
  · exact latchTrigger_eq _
  · exact ⟨s.pend, rfl⟩

/-- The shift keeps the length of the chain. -/
theorem shiftSync_length (h : 1 ≤ s.sync.length) : (shiftSync s).length = s.sync.length := by
  simp only [shiftSync, List.length_cons, List.length_dropLast]
  omega

/-- A state after a step that writes at most the input side, with the chain's length kept. -/
def InputSideOnly (s t : State) : Prop :=
  ∃ p sy e l q sc n, (1 ≤ s.sync.length → sy.length = s.sync.length) ∧
    t = { s with pend := p, sync := sy, edgePrev := e, trigIn := l, rxq := q, sched := sc, freeCount := n }

/-- Who writes the registers in a step: RESET; no one, the input side apart; an enabled SERVICE; or the host. -/
theorem step_writer (h : step s = .next t) :
    (s.sched.head? = some .reset ∧ ∃ sc n, exec .reset (taken s sc n) = .next t) ∨
    InputSideOnly s t ∨
    (serviceEnabled s = true ∧ ∃ sc n, t = serviceTrigger (taken s sc n)) ∨
    ((s.sched.head? = some .host ∨ s.sched.head? = some .hostRun ∨ s.sched.head? = none) ∧
      ∃ sc n, hostStep (taken s sc n) = .next t) := by
  obtain ⟨sc, n, hcases⟩ := step_cases h
  rcases hcases with ⟨-, ht⟩ | ⟨hhd, hr⟩ | ⟨b, -, ht⟩ | ⟨-, ht⟩ | ⟨hhd, hh⟩ | ⟨l, -, ht⟩ | ⟨-, ht⟩
  · obtain ⟨p, hp⟩ := latchTrigger_eq (taken s sc n)
    exact .inr (.inl ⟨p, _, _, _, _, _, _, fun _ => rfl, ht.trans hp⟩)
  · exact .inl ⟨hhd, sc, n, hr⟩
  · exact .inr (.inl ⟨_, _, _, _, _, _, _, fun _ => rfl, ht⟩)
  · by_cases hen : serviceEnabled s = true
    · exact .inr (.inr (.inl ⟨hen, sc, n, by rw [ht, if_pos hen]⟩))
    · exact .inr (.inl ⟨_, _, _, _, _, _, _, fun _ => rfl, by rw [ht, if_neg hen]⟩)
  · exact .inr (.inr (.inr ⟨hhd, sc, n, hh⟩))
  · exact .inr (.inl ⟨_, _, _, _, _, _, _, fun _ => rfl, ht⟩)
  · obtain ⟨p, hp⟩ := sampleInput_eq (taken s sc n)
    exact .inr (.inl ⟨p, _, _, _, _, _, _, shiftSync_length (s := taken s sc n), ht.trans hp⟩)

/-- SERVICE is not enabled while REACT = 0 (41_trigger_counter.md R115). -/
theorem serviceEnabled_of_react_zero (h : s.react = 0#1) : serviceEnabled s = false := by
  simp [serviceEnabled, h]

/-! What SERVICE and the host write -/

/-- NTRIG after a SERVICE fits its width: it is the count modulo 2^W_CNT, or 0 (41_trigger_counter.md R117, R119). -/
theorem serviceTrigger_ntrig_lt (s : State) : (serviceTrigger s).ntrig < 2 ^ s.cfg.wCnt := by
  have hmod : (s.ntrig + 1) % 2 ^ s.cfg.wCnt < 2 ^ s.cfg.wCnt := Nat.mod_lt _ (Nat.two_pow_pos _)
  by_cases h : (s.ntrig + 1) % 2 ^ s.cfg.wCnt = s.nepp.toNat
  · rw [serviceTrigger_reached h]
    cases hm : s.cfg.threshMode <;> simp [advance, resetOnAdvance, hm, hmod]
  · rw [serviceTrigger_below h]
    exact hmod

/-- STATE after a SERVICE: its successor when the threshold is reached, else unchanged (41_trigger_counter.md R116). -/
theorem serviceTrigger_state (s : State) :
    (serviceTrigger s).state = if NextServiceAdvances s then succState s.state else s.state := by
  by_cases h : (s.ntrig + 1) % 2 ^ s.cfg.wCnt = s.nepp.toNat
  · rw [serviceTrigger_reached h, if_pos h]; simp [advance]
  · rw [serviceTrigger_below h, if_neg h]

/-- In COUNTER mode a SERVICE leaves NEPP (41_trigger_counter.md R119). -/
theorem serviceTrigger_nepp (hm : s.cfg.threshMode = .counter) : (serviceTrigger s).nepp = s.nepp := by
  by_cases h : (s.ntrig + 1) % 2 ^ s.cfg.wCnt = s.nepp.toNat
  · rw [serviceTrigger_reached h]; simp [advance, resetOnAdvance, hm]
  · rw [serviceTrigger_below h]

/-- A SERVICE only appends to TXQ. -/
theorem serviceTrigger_txq (s : State) : ∃ bs, (serviceTrigger s).txq = s.txq ++ bs := by
  by_cases h : (s.ntrig + 1) % 2 ^ s.cfg.wCnt = s.nepp.toNat
  · rw [serviceTrigger_reached h]; simp [advance]
  · rw [serviceTrigger_below h]; exact ⟨_, rfl⟩

/-- The successor of a state is one of 1..7. -/
theorem succState_ne_zero (d : BitVec 3) : succState d ≠ 0#3 := by revert d; decide

/-- A value of STATE that is not 0 is in 1..7. -/
theorem state_range {d : BitVec 3} : 1 ≤ d.toNat ∧ d.toNat ≤ 7 ↔ d ≠ 0#3 := by revert d; decide

/-- An operation at the port leaves STATE or writes a state that is not 0 (42_port_interface.md R142). -/
theorem issuePort_state {w : PortWord} (h : issuePort w s = .next t) : t.state = s.state ∨ t.state ≠ 0#3 := by
  obtain ⟨i, -, hp, he⟩ := issuePort_next h
  rcases exec_port_cases hp he with ⟨_, _, _, rfl⟩ | ⟨d, hd, _, rfl⟩ | ⟨_, _, rfl⟩ | ⟨_, _, rfl⟩ | ⟨_, _, rfl⟩ | ⟨_, _, rfl⟩
  case inr.inl => exact .inr hd
  all_goals exact .inl rfl

/-- A step of the host leaves STATE or writes a state that is not 0. -/
theorem hostStep_state (h : hostStep s = .next t) : t.state = s.state ∨ t.state ≠ 0#3 := by
  rcases hostStep_cases h with ⟨m, rest, -, hm⟩ | ⟨-, w, ws, -, hi⟩ | ⟨-, -, -, b, bs, -, he⟩ | ⟨-, rfl⟩
  · obtain ⟨u, hu, rfl⟩ := runMicro_next hm
    cases ha : m.act with
    | tx b => rw [ha] at hu; cases hu; simp
    | port w => rw [ha] at hu; simpa using issuePort_state (s := { s with hostPos := rest }) hu
  · exact issuePort_state (s := { s with portq := ws }) hi
  · obtain ⟨_, _, _, _, hx⟩ := exec_serial_next s.mode b { s with rxq := bs }
    rw [hx] at he; cases he; exact .inl rfl
  · exact .inl rfl

/-- A step that is no RESET leaves STATE or writes a state that is not 0 (10_state.md R24). -/
theorem step_state (hr : NotReset s) (h : step s = .next t) : t.state = s.state ∨ t.state ≠ 0#3 := by
  rcases step_writer h with ⟨hhd, -⟩ | ⟨_, _, _, _, _, _, _, -, rfl⟩ | ⟨-, sc, n, rfl⟩ | ⟨-, sc, n, hh⟩
  · exact absurd hhd hr
  · exact .inl rfl
  · rw [serviceTrigger_state]
    split
    · exact .inr (succState_ne_zero _)
    · exact .inl rfl
  · exact hostStep_state (s := taken s sc n) hh

/-- A step of the host leaves RXQ, or takes its head between bytes and runs it (43_serial_host.md R171, R173). -/
theorem hostStep_rxq (h : hostStep s = .next t) :
    t.rxq = s.rxq ∨ (s.hostPos = [] ∧ s.portq = [] ∧ s.cfg.host = .serial ∧
      ∃ b, s.rxq = b :: t.rxq ∧ exec (decodeSerial s.mode b) { s with rxq := t.rxq } = .next t) := by
  rcases hostStep_cases h with ⟨m, rest, -, hm⟩ | ⟨-, w, ws, -, hi⟩ | ⟨hpos, hpq, hser, b, bs, hrx, he⟩ | ⟨-, rfl⟩
  · obtain ⟨u, hu, rfl⟩ := runMicro_next hm
    left; simp [runAct_frame hu]
  · obtain ⟨i, -, hp, he⟩ := issuePort_next hi
    left; simp [exec_port_frame hp he]
  · have hbs : t.rxq = bs := by
      obtain ⟨_, _, _, _, hx⟩ := exec_serial_next s.mode b { s with rxq := bs }
      rw [hx] at he; cases he; rfl
    subst hbs
    exact .inr ⟨hpos, hpq, hser, b, hrx, he⟩
  · exact .inl rfl

/-! The host's scripts and the invariant (43_serial_host.md R187, R188) -/

/-- A PORT operation's word decodes to it. -/
theorem decodePort_portOf {i : Instr} {w : PortWord} (hw : encode i = .port w) : decodePort (portOf i) = .ok i := by
  simp [portOf, hw, decodePort_encode hw]

/-- `scriptOk` of a script with a next micro-step, part by part. -/
theorem scriptOk_cons {m : Mode} {r : BitVec 1} {x : HostMicro} {rest : List HostMicro} :
    scriptOk m r (x :: rest) = true ↔
      entryDisabled m r = true ∧ actRuns x.act = true ∧ linkOk m x rest = true ∧
        scriptOk (modeAfter x.andThen m) (reactAfter x.act r) rest = true := by
  simp [scriptOk, and_assoc]

/-- A position that the rules allow has REACT = 0 in AwaitingDigitEntry now. -/
theorem entryDisabled_of_scriptOk {m : Mode} {r : BitVec 1} {p : List HostMicro} (h : scriptOk m r p = true) :
    entryDisabled m r = true := by
  cases p with
  | nil => exact h
  | cons x rest => exact (scriptOk_cons.1 h).1

/-- A micro-step that runs wherever it stands in a script, and leaves MODE and REACT. -/
structure HostMicro.Neutral (x : HostMicro) : Prop where
  runs : actRuns x.act = true
  link : ∀ m rest, linkOk m x rest = true
  mode : ∀ m, modeAfter x.andThen m = m
  react : ∀ r, reactAfter x.act r = r

/-- Neutral micro-steps may come before any position that the rules allow. -/
theorem scriptOk_append {m : Mode} {r : BitVec 1} {p rest : List HostMicro} (hp : ∀ x ∈ p, x.Neutral)
    (h : scriptOk m r rest = true) : scriptOk m r (p ++ rest) = true := by
  induction p with
  | nil => exact h
  | cons x p ih =>
    obtain ⟨hx, hp⟩ := List.forall_mem_cons.1 hp
    refine scriptOk_cons.2 ⟨entryDisabled_of_scriptOk h, hx.runs, hx.link _ _, ?_⟩
    rw [hx.mode, hx.react]
    exact ih hp

/-- A script of neutral micro-steps is allowed wherever REACT and MODE agree. -/
theorem scriptOk_of_neutral {m : Mode} {r : BitVec 1} {p : List HostMicro} (he : entryDisabled m r = true)
    (hp : ∀ x ∈ p, x.Neutral) : scriptOk m r p = true := by
  simpa using scriptOk_append (rest := []) hp he

/-- A transmission is neutral, with nothing or the clearing of PI going with it. -/
theorem neutral_microTx (b : Byte) : (microTx b .nothing).Neutral ∧ (microTx b .clearPi).Neutral := by
  constructor <;> exact ⟨rfl, fun _ _ => rfl, fun _ => rfl, fun _ => rfl⟩

/-- The micro-steps of a message are its transmissions. -/
theorem mem_microTxs {bs : List Byte} {th : HostThen} {x : HostMicro} (h : x ∈ microTxs bs th) :
    ∃ b, x = microTx b .nothing ∨ x = microTx b th := by
  induction bs, th using microTxs.induct with
  | case1 th => cases h
  | case2 b th => exact ⟨b, .inr (List.mem_singleton.1 h)⟩
  | case3 b c bs th ih =>
    rcases List.mem_cons.1 h with rfl | h
    · exact ⟨b, .inl rfl⟩
    · exact ih h

/-- A message is neutral, with nothing or the clearing of PI after it. -/
theorem neutral_microTxs {th : HostThen} (hth : th = .nothing ∨ th = .clearPi) (bs : List Byte) :
    ∀ x ∈ microTxs bs th, x.Neutral := by
  intro x hx
  obtain ⟨b, rfl | rfl⟩ := mem_microTxs hx
  · exact (neutral_microTx b).1
  · rcases hth with rfl | rfl
    · exact (neutral_microTx b).1
    · exact (neutral_microTx b).2

/-- A port operation that runs and does not write REACT is neutral, if what goes with it is. -/
theorem neutral_microPort {i : Instr} {w : PortWord} {th : HostThen} (hw : encode i = .port w)
    (hruns : portRuns i = true) (hreact : ∀ r, reactAfterPort i r = r := by intros; rfl)
    (hlink : ∀ m rest, linkOk m (microPort i th) rest = true := by intros; rfl)
    (hmode : ∀ m, modeAfter th m = m := by intros; rfl) :
    (microPort i th).Neutral where
  runs := by simp [microPort, actRuns, wordRuns, decodePort_portOf hw, hruns]
  link := hlink
  mode := hmode
  react r := by simp [microPort, reactAfter, decodePort_portOf hw, hreact]

/-- STAGE_STATE's echo and WRLINE 1 are neutral (43_serial_host.md R174). -/
theorem neutral_stageStateScript (d : BitVec 3) : ∀ x ∈ stageStateScript d, x.Neutral := by
  have hline : (microPort (.wrline 1#1) .nothing).Neutral := neutral_microPort rfl rfl
  simp [stageStateScript, neutral_microTx, hline]

/-- The newline and WRLINE 0 are neutral (43_serial_host.md R180). -/
theorem neutral_closeLineScript : ∀ x ∈ closeLineScript, x.Neutral := by
  have hline : (microPort (.wrline 0#1) .nothing).Neutral := neutral_microPort rfl rfl
  simp [closeLineScript, neutral_microTx, hline]

/-- CONFIRM_STATE is neutral: with a digit that is not 0, APPLY and WRSTATE run (43_serial_host.md R180). -/
theorem neutral_confirmStateScript {d : BitVec 3} (hd : d ≠ 0#3) : ∀ x ∈ confirmStateScript d, x.Neutral := by
  have happly : (microPort (.apply d) .nothing).Neutral := neutral_microPort rfl (decide_eq_true hd)
  have hwrstate : (microPort (.wrstate d) .clearPds).Neutral := neutral_microPort rfl (decide_eq_true hd)
  have hrdline : (microPort .rdline .closeLine).Neutral := neutral_microPort rfl rfl
  have hrdstate : (microPort .rdstate (.printValue stateSetPrefix)).Neutral := neutral_microPort rfl rfl
  simp [confirmStateScript, happly, hwrstate, hrdline, hrdstate]

/-- In Idle every REACT is allowed. -/
theorem entryDisabled_idle (r : BitVec 1) : entryDisabled .idle r = true := by simp [entryDisabled]

/-- What CONFIRM dispatches to is allowed in Idle (43_serial_host.md R179 to R183). -/
theorem scriptOk_confirmScript {pds : Option (BitVec 3)} (hpds : pds ≠ some 0#3) (pi : Option PendingInstr)
    (r : BitVec 1) : scriptOk .idle r (confirmScript pds pi) = true := by
  match pds, pi with
  | some d, _ =>
    have hd : d ≠ 0#3 := fun hd => hpds (congrArg some hd)
    exact scriptOk_of_neutral (entryDisabled_idle r) (neutral_confirmStateScript hd)
  | none, some .toggleTriggerReaction =>
    show scriptOk .idle r confirmToggleScript = true
    revert r; decide
  | none, some .setPulseThreshold =>
    show scriptOk .idle r confirmNeppScript = true
    revert r; decide
  | none, none => exact entryDisabled_idle r

/-- The rest of CONFIRM_TOGGLE, for any value read, is allowed in Idle (43_serial_host.md R181). -/
theorem scriptOk_flipReactScript (v : Nat) (r : BitVec 1) : scriptOk .idle r (flipReactScript v) = true := by
  have hruns : wordRuns (portOf (.wrreact (BitVec.ofNat 1 (1 - v)))) = true := by
    simp [wordRuns, decodePort_portOf (i := .wrreact _) rfl, portRuns]
  refine scriptOk_cons.2 ⟨entryDisabled_idle r, hruns, rfl, ?_⟩
  exact scriptOk_of_neutral (entryDisabled_idle _) (neutral_microTxs (.inr rfl) _)

/-- The script of the second digit is allowed in AwaitingDigitEntry: its last micro-step writes REACT and leaves the
mode (43_serial_host.md R185). -/
theorem scriptOk_entrySecondScript (n : BitVec 8) : scriptOk .awaitingDigitEntry 0#1 (entrySecondScript n) = true := by
  have hwrnepp : (microPort (.wrnepp n) .nothing).Neutral := neutral_microPort rfl rfl
  have hlast : scriptOk .awaitingDigitEntry 0#1 [microPort (.wrreact 1#1) .leaveEntry] = true := by decide
  exact scriptOk_append (p := [_]) (by simpa using hwrnepp)
    (scriptOk_append (neutral_microTxs (.inr rfl) _) hlast)

/-- MODE after what goes with a micro-step. -/
theorem applyThen_mode (th : HostThen) (s : State) : (applyThen th s).mode = modeAfter th s.mode := by
  cases th <;> simp only [applyThen, modeAfter]
  case closeLine => split <;> rfl

/-- TENS stays a digit that is held in AwaitingDigitEntry only: what changes MODE clears it. -/
theorem applyThen_tensOk (th : HostThen) (h : tensOk s.mode s.tens = true) :
    tensOk (applyThen th s).mode (applyThen th s).tens = true := by
  cases th
  case enterEntry => rfl
  case leaveEntry => rfl
  case closeLine => simp only [applyThen]; split <;> exact h
  all_goals exact h

/-- What goes with a micro-step leaves PDS or clears it. -/
theorem applyThen_pds (th : HostThen) (s : State) : (applyThen th s).pds = s.pds ∨ (applyThen th s).pds = none := by
  cases th
  case clearPds => exact .inr rfl
  case closeLine => simp only [applyThen]; split <;> exact .inl rfl
  all_goals exact .inl rfl

/-- The micro-steps that a value read adds keep the position one that the rules allow. -/
theorem applyThen_scriptOk {x : HostMicro} (hlink : linkOk s.mode x s.hostPos = true)
    (h : scriptOk (modeAfter x.andThen s.mode) s.react s.hostPos = true) :
    scriptOk (applyThen x.andThen s).mode (applyThen x.andThen s).react (applyThen x.andThen s).hostPos = true := by
  have hreact : (applyThen x.andThen s).react = s.react := by simp
  rw [applyThen_mode, hreact]
  cases hth : x.andThen <;> rw [hth] at h
  case printValue pre => exact scriptOk_append (neutral_microTxs (.inl rfl) _) h
  case closeLine =>
    simp only [applyThen]
    split
    · exact scriptOk_append neutral_closeLineScript h
    · exact h
  case flipReact =>
    obtain ⟨hnil, hidle⟩ : s.hostPos = [] ∧ s.mode = .idle := by simpa [linkOk, hth] using hlink
    simp only [applyThen, modeAfter, hnil, hidle, List.append_nil]
    exact scriptOk_flipReactScript ..
  all_goals exact h

/-- REACT after a port operation. -/
theorem issuePort_react {w : PortWord} (h : issuePort w s = .next t) : t.react = reactAfter (.port w) s.react := by
  obtain ⟨i, hi, hp, he⟩ := issuePort_next h
  simp only [reactAfter, hi]
  rcases exec_port_cases hp he with
    ⟨_, _, rfl, rfl⟩ | ⟨_, _, rfl, rfl⟩ | ⟨_, rfl, rfl⟩ | ⟨_, rfl, rfl⟩ | ⟨_, rfl, rfl⟩ | ⟨hne, _, rfl⟩
  case inr.inr.inr.inr.inr =>
    unfold reactAfterPort
    split
    · exact absurd rfl (hne _)
    · rfl
  all_goals rfl

/-- REACT after an act of a micro-step. -/
theorem runAct_react {a : HostAct} (h : runAct a s = .next t) : t.react = reactAfter a s.react := by
  cases a with
  | tx b => cases h; rfl
  | port w => exact issuePort_react h

/-- Only the serial host has a script. -/
theorem host_serial_of_script (hok : hostOk s = true) (hpos : s.hostPos ≠ []) : s.cfg.host = .serial := by
  cases hhost : s.cfg.host with
  | serial => rfl
  | portList ws => simp [hostOk, hhost, hpos] at hok

/-- Only a port-list host has words to issue, and it has no script and no serial mode. -/
theorem portList_of_portq (hok : hostOk s = true) (hq : s.portq ≠ []) :
    (∃ ws, s.cfg.host = .portList ws) ∧ s.hostPos = [] ∧ s.mode = .idle := by
  cases hhost : s.cfg.host with
  | serial => simp [hostOk, hhost, hq] at hok
  | portList ws => exact ⟨⟨ws, rfl⟩, by simpa [hostOk, hhost] using hok⟩

/-- The serial host is in order as long as it has no list of words. -/
theorem hostOk_serial (hser : s.cfg.host = .serial) : hostOk s = s.portq.isEmpty := by simp only [hostOk, hser]

/-- A micro-step of a script keeps the invariant. -/
theorem runMicro_inv {x : HostMicro} {rest : List HostMicro} (hs : s.Inv) (hpos : s.hostPos = x :: rest)
    (h : runMicro x { s with hostPos := rest } = .next t) : t.Inv := by
  obtain ⟨hcfg, hntrig, hsync, hpds, htens, hscript, hhost⟩ := hs
  rw [hpos] at hscript
  obtain ⟨-, -, hlink, hrest⟩ := scriptOk_cons.1 hscript
  have hser : s.cfg.host = .serial := host_serial_of_script hhost (by simp [hpos])
  obtain ⟨u, hu, rfl⟩ := runMicro_next h
  obtain ⟨hn, -, hsy, -, -, hm, hpd, -, ht, hp, hq, -, -, hc, -⟩ := runAct_frame hu
  have hr := runAct_react hu
  dsimp only at hn hsy hm hpd ht hp hq hc hr
  rw [hostOk_serial hser] at hhost
  refine ⟨?_, ?_, ?_, ?_, applyThen_tensOk _ ?_, applyThen_scriptOk ?_ ?_, ?_⟩
  · simpa [hc] using hcfg
  · simpa [hc, hn] using hntrig
  · simpa [hc, hsy] using hsync
  · rcases applyThen_pds x.andThen u with h | h <;> rw [h]
    · rwa [hpd]
    · exact (Option.some_ne_none _).symm
  · rwa [hm, ht]
  · rwa [hm, hp]
  · rwa [hm, hr, hp]
  · rw [hostOk_serial (by simp [hc, hser])]
    simpa [hq] using hhost

/-- A word of a port-list host keeps the invariant: of the fields that the invariant is about it writes REACT at most,
and the host is in Idle. -/
theorem issuePort_inv {w : PortWord} {ws : List PortWord} (hs : s.Inv) (hq : s.portq = w :: ws)
    (h : issuePort w { s with portq := ws } = .next t) : t.Inv := by
  obtain ⟨hcfg, hntrig, hsync, hpds, htens, -, hhost⟩ := hs
  obtain ⟨⟨l, hlist⟩, hnil, hidle⟩ := portList_of_portq hhost (by simp [hq])
  obtain ⟨i, -, hport, he⟩ := issuePort_next h
  obtain ⟨hn, -, hsy, -, -, hm, hpd, -, ht, hp, -, -, -, hc, -⟩ := exec_port_frame hport he
  dsimp only at hn hsy hm hpd ht hp hc
  refine ⟨?_, ?_, ?_, ?_, ?_, ?_, ?_⟩
  · rwa [hc]
  · rwa [hc, hn]
  · rwa [hc, hsy]
  · rwa [hpd]
  · rwa [hm, ht]
  · rw [hm, hp, hidle, hnil]; exact entryDisabled_idle _
  · simp [hostOk, hc, hlist, hm, hp, hidle, hnil]

/-- The first micro-step of a serial byte keeps the invariant when PDS, TENS and the script it leaves are in order. -/
theorem inv_of_serial_writes (hs : s.Inv) (hser : s.cfg.host = .serial) {p : Option (BitVec 3)}
    {q : Option PendingInstr} {x : Option (BitVec 4)} {script : List HostMicro} (hp : p ≠ some 0#3)
    (hx : tensOk s.mode x = true) (hscript : scriptOk s.mode s.react script = true) :
    State.Inv { s with pds := p, pi := q, tens := x, hostPos := script } := by
  obtain ⟨hcfg, hntrig, hsync, -, -, -, hhost⟩ := hs
  rw [hostOk_serial hser] at hhost
  exact ⟨hcfg, hntrig, hsync, hp, hx, hscript, (hostOk_serial (s := { s with hostPos := script }) hser).trans hhost⟩

/-- A byte that the serial host takes in Idle keeps the invariant (43_serial_host.md R174 to R183). -/
theorem exec_decodeIdle_inv {b : Byte} (hs : s.Inv) (hser : s.cfg.host = .serial) (hm : s.mode = .idle)
    (h : exec (decodeIdle b) s = .next t) : t.Inv := by
  obtain ⟨-, -, -, hpds, htens, -⟩ := id hs
  have hnone : (none : Option (BitVec 3)) ≠ some 0#3 := (Option.some_ne_none _).symm
  have hneutral {script : List HostMicro} (hp : ∀ x ∈ script, x.Neutral) : scriptOk s.mode s.react script = true :=
    hm ▸ scriptOk_of_neutral (entryDisabled_idle _) hp
  have hletter (c : Byte) : ∀ x ∈ letterScript c, x.Neutral := by simp [letterScript, neutral_microTx]
  rcases decodeIdle_cases b with ⟨d, hd, hb⟩ | hb | hb | hb | hb <;> rw [hb] at h <;> cases h
  · exact inv_of_serial_writes hs hser (fun heq => hd (Option.some.inj heq)) htens
      (hneutral (neutral_stageStateScript d))
  · exact inv_of_serial_writes hs hser hpds htens (hm ▸ scriptOk_confirmScript hpds _ _)
  · exact inv_of_serial_writes hs hser hnone htens (hneutral (hletter _))
  · exact inv_of_serial_writes hs hser hnone htens (hneutral (hletter _))
  · exact inv_of_serial_writes hs hser hnone htens (hneutral (hletter _))

/-- A byte that the serial host takes in AwaitingDigitEntry keeps the invariant (43_serial_host.md R184 to R186). -/
theorem exec_decodeEntry_inv {b : Byte} (hs : s.Inv) (hser : s.cfg.host = .serial) (hm : s.mode = .awaitingDigitEntry)
    (h : exec (decodeEntry b) s = .next t) : t.Inv := by
  obtain ⟨-, -, -, hpds, htens, hscript, -⟩ := id hs
  have hdis : entryDisabled s.mode s.react = true := entryDisabled_of_scriptOk hscript
  rcases decodeEntry_cases b with ⟨d, hd, hb⟩ | hb <;> rw [hb] at h
  · simp only [exec, execEntryDigit] at h
    split at h <;> cases h
    · exact inv_of_serial_writes hs hser hpds (by simp [tensOk, hd, hm]) hdis
    · have hr : s.react = 0#1 := by simpa [entryDisabled, hm] using hdis
      refine inv_of_serial_writes hs hser hpds htens ?_
      rw [hm, hr]
      exact scriptOk_entrySecondScript _
  · cases h
    exact inv_of_serial_writes hs hser hpds htens hdis

/-- A byte that the serial host takes keeps the invariant, in both modes. -/
theorem exec_decodeSerial_inv {b : Byte} (hs : s.Inv) (hser : s.cfg.host = .serial)
    (h : exec (decodeSerial s.mode b) s = .next t) : t.Inv := by
  unfold decodeSerial at h
  split at h
  next hm => exact exec_decodeIdle_inv hs hser hm h
  next hm => exact exec_decodeEntry_inv hs hser hm h

/-- A step of the host keeps the invariant. -/
theorem hostStep_inv (hs : s.Inv) (h : hostStep s = .next t) : t.Inv := by
  rcases hostStep_cases h with ⟨m, rest, hpos, hm⟩ | ⟨-, w, ws, hq, hi⟩ | ⟨-, -, hser, b, bs, -, he⟩ | ⟨-, rfl⟩
  · exact runMicro_inv hs hpos hm
  · exact issuePort_inv hs hq hi
  · exact exec_decodeSerial_inv (s := { s with rxq := bs }) hs hser he
  · exact hs

/-- A step that writes the input side only keeps the invariant. -/
theorem InputSideOnly.inv (hs : s.Inv) (h : InputSideOnly s t) : t.Inv := by
  obtain ⟨hcfg, hntrig, hsync, hrest⟩ := hs
  obtain ⟨_, sy, _, _, _, _, _, hlen, rfl⟩ := h
  have hstages : sy.length = s.cfg.syncStages := (hlen (hsync ▸ hcfg.2)).trans hsync
  exact ⟨hcfg, hntrig, hstages, hrest⟩

/-- SERVICE keeps the invariant: of the fields that the invariant is about it writes NTRIG only. -/
theorem serviceTrigger_inv (hs : s.Inv) : (serviceTrigger s).Inv := by
  obtain ⟨hcfg, -, hkept⟩ := hs
  have hntrig := serviceTrigger_ntrig_lt s
  simpa only [State.Inv, hostOk, serviceTrigger_frame] using And.intro hcfg (And.intro hntrig hkept)

/-- With the parameters in their bounds RESET leads to a state that meets the invariant. -/
theorem execReset_inv (hcfg : s.cfg.wf) (h : exec .reset s = .next t) : t.Inv := by
  cases h
  exact resetWith_inv hcfg (freeDraws_sync_length ..)

/-! What a step runs -/

/-- A step with a next entry of the schedule does what the entry says. -/
theorem step_of_sched {e : Event} {rest : List Event} (h : s.sched = e :: rest) :
    step s = runEvent e { s with sched := afterEvent e rest s } := by
  simp [step, nextStep, h]

/-- A host that waits stands still. -/
theorem hostStep_of_hostWaits (h : hostWaits s = true) : hostStep s = .next s := by
  simp only [hostWaits, Bool.and_eq_true, Bool.or_eq_true, List.isEmpty_iff, decide_eq_true_eq] at h
  obtain ⟨⟨hpos, hq⟩, hrx⟩ := h
  unfold hostStep
  rw [hpos, hq]
  cases hhost : s.cfg.host <;> simp_all

/-- Between bytes the next word of a port-list host goes to the port. -/
theorem hostStep_of_portq {w : PortWord} {ws : List PortWord} (hpos : s.hostPos = []) (hq : s.portq = w :: ws) :
    hostStep s = issuePort w { s with portq := ws } := by
  simp only [hostStep, hpos, hq]

/-- Between bytes the serial host takes the oldest byte and runs its class in the host's mode. -/
theorem hostStep_of_rxq {b : Byte} {bs : List Byte} (hpos : s.hostPos = []) (hq : s.portq = [])
    (hser : s.cfg.host = .serial) (hrx : s.rxq = b :: bs) :
    hostStep s = exec (decodeSerial s.mode b) { s with rxq := bs } := by
  simp only [hostStep, hpos, hq, hser, hrx]

/-- A word that decodes runs its instruction. -/
theorem issuePort_ok {w : PortWord} {i : Instr} (h : decodePort w = .ok i) : issuePort w s = exec i s := by
  simp only [issuePort, h]

/-- A word that decodes to nothing ends in its fault. -/
theorem issuePort_error {w : PortWord} {e : DecodeError} (h : decodePort w = .error e) :
    issuePort w s = .fault (faultOf e) := by
  simp only [issuePort, h]

end Sys2Proof.Machine

namespace Sys2Proof

open Machine

/-- Settles O49: RESET, the input side, SERVICE and the host each keep the invariant. -/
theorem stepKeepsTheInvariant : Obligations.StepKeepsTheInvariant := by
  intro s t hs h
  rcases step_writer h with ⟨-, sc, n, hr⟩ | hin | ⟨-, sc, n, rfl⟩ | ⟨-, sc, n, hh⟩
  · exact execReset_inv (s := taken s sc n) hs.1 hr
  · exact hin.inv hs
  · exact serviceTrigger_inv (s := taken s sc n) hs
  · exact hostStep_inv (s := taken s sc n) hs hh

/-- Settles O51: what writes STATE writes a state that is not 0, and three bits hold at most 7. -/
theorem stateStaysInOneToSeven : Obligations.StateStaysInOneToSeven := by
  refine ⟨fun d s t h => ?_, fun s t hen hadv h => ?_, fun s t hs hr h => ?_⟩
  · obtain ⟨hd, rfl⟩ := stateRangeChecked_next.1 h
    exact state_range.2 hd
  · simp only [exec, execService, hen, if_true] at h
    cases h
    rw [serviceTrigger_state, if_pos hadv]
    exact state_range.2 (succState_ne_zero _)
  · refine state_range.2 ?_
    rcases step_state hr h with heq | hne
    · rw [heq]; exact state_range.1 ⟨hs, by omega⟩
    · exact hne

/-- Settles O53: no agent writes the field. -/
theorem noStepChangesTheParameters : Obligations.NoStepChangesTheParameters := by
  intro s t h
  rcases step_writer h with ⟨-, sc, n, hr⟩ | ⟨_, _, _, _, _, _, _, -, rfl⟩ | ⟨-, sc, n, rfl⟩ | ⟨-, sc, n, hh⟩
  · cases hr; rfl
  · rfl
  · simp [serviceTrigger_frame]
  · simp [hostStep_frame hh]

/-- Settles O54: only a SERVICE counts, and it is not enabled. -/
theorem nothingIsCountedWhileDisabled : Obligations.NothingIsCountedWhileDisabled := by
  intro s t hreact hr h
  rcases step_writer h with ⟨hhd, -⟩ | ⟨_, _, _, _, _, _, _, -, rfl⟩ | ⟨hen, -⟩ | ⟨hhd, sc, n, hh⟩
  · exact absurd hhd hr
  · exact ⟨rfl, fun _ => ⟨rfl, rfl, rfl, hreact⟩⟩
  · rw [serviceEnabled_of_react_zero hreact] at hen; cases hen
  · refine ⟨by simp [hostStep_frame hh], fun hother => ?_⟩
    rcases hhd with hhd | hhd | hhd <;> simp [hhd] at hother

/-- Settles O55, by who wrote the registers, and for TRIG_IN by the kind of step. -/
theorem onlyTheHostWritesItsRegisters : Obligations.OnlyTheHostWritesItsRegisters := by
  refine ⟨fun s t h hnone hhost hrun hr => ?_, fun s t h hlevel => ?_⟩
  · rcases step_writer h with ⟨hhd, -⟩ | ⟨_, _, _, _, _, _, _, -, rfl⟩ | ⟨-, sc, n, rfl⟩ | ⟨hhd, -⟩
    · exact absurd hhd hr
    · exact ⟨rfl, fun _ => rfl, rfl, rfl, rfl, rfl, rfl, rfl, rfl⟩
    · simpa [serviceTrigger_frame] using serviceTrigger_nepp (s := taken s sc n)
    · exact absurd hhd (by simp [hhost, hrun, hnone])
  · obtain ⟨sc, n, hcases⟩ := step_cases h
    rcases hcases with ⟨-, rfl⟩ | ⟨-, hr⟩ | ⟨b, -, rfl⟩ | ⟨-, rfl⟩ | ⟨-, hh⟩ | ⟨l, hhd, -⟩ | ⟨-, rfl⟩
    · simp
    · cases hr; rfl
    · rfl
    · split
      · simp [serviceTrigger_frame]
      · rfl
    · simp [hostStep_frame hh]
    · exact absurd hhd (hlevel l)
    · obtain ⟨p, hp⟩ := sampleInput_eq (taken s sc n)
      rw [hp]

/-- Settles O56: SERVICE appends its lines, and a micro-step of the host at most one byte. -/
theorem transmitQueueOnlyGrows : Obligations.TransmitQueueOnlyGrows := by
  have hhost (s t : State) (h : hostStep s = .next t) : t.txq = s.txq ∨ ∃ b, t.txq = s.txq ++ [b] := by
    obtain ⟨-, -, -, -, -, htxq, -⟩ := hostStep_frame h
    exact htxq
  refine ⟨fun s t hr h => ?_, hhost⟩
  rcases step_writer h with ⟨hhd, -⟩ | ⟨_, _, _, _, _, _, _, -, rfl⟩ | ⟨-, sc, n, rfl⟩ | ⟨-, sc, n, hh⟩
  · exact absurd hhd hr
  · exact ⟨[], by simp⟩
  · exact serviceTrigger_txq (taken s sc n)
  · rcases hhost _ _ hh with heq | ⟨b, heq⟩
    · exact ⟨[], by simp [heq]⟩
    · exact ⟨[b], heq⟩

/-- Settles O57, by the kind of step; for a step of the host by `hostStep_rxq`. -/
theorem receiveQueueIsFirstInFirstOut : Obligations.ReceiveQueueIsFirstInFirstOut := by
  intro s t hr h
  obtain ⟨sc, n, hcases⟩ := step_cases h
  rcases hcases with ⟨hhd, rfl⟩ | ⟨hhd, -⟩ | ⟨b, hhd, rfl⟩ | ⟨hhd, rfl⟩ | ⟨hhd, hh⟩ | ⟨l, hhd, rfl⟩ | ⟨hhd, rfl⟩
  · simp [hhd]
  · exact absurd hhd hr
  · simp [hhd]
  · have hrx : (if serviceEnabled s then serviceTrigger (taken s sc n) else taken s sc n).rxq = s.rxq := by
      split
      · simp [serviceTrigger_frame]
      · rfl
    exact ⟨fun b hb => by simp [hb] at hhd, fun _ => .inl hrx⟩
  · refine ⟨fun b hb => by simp [hb] at hhd, fun _ => ?_⟩
    refine (hostStep_rxq hh).imp_right fun ⟨hpos, hq, hser, b, hrx, he⟩ => ?_
    rw [List.head?_eq_none_iff] at hhd
    exact ⟨hhd, hpos, hq, hser, b, sc, n, hrx, he⟩
  · simp [hhd]
  · obtain ⟨p, hp⟩ := sampleInput_eq (taken s sc n)
    simp [hhd, hp]

/-- Settles O44: each clause is `step_of_sched` for its entry, and a host's clauses then say what the host takes. -/
theorem stepRunsTheDecodedInstruction : Obligations.StepRunsTheDecodedInstruction := by
  intro s rest
  refine ⟨fun w ws hsch hpos hq => ?_, fun b bs hsch hpos hq hser hrx => ?_, fun hsch => step_of_sched hsch,
    fun hsch => step_of_sched hsch, fun hsch => step_of_sched hsch, fun b hsch => step_of_sched hsch,
    fun l hsch => step_of_sched hsch, fun hsch => step_of_sched hsch, fun hsch => ⟨fun hw => ?_, fun hw => ?_⟩⟩
  · have hport : step s = issuePort w { s with sched := rest, portq := ws } :=
      (step_of_sched hsch).trans (hostStep_of_portq (s := { s with sched := rest }) hpos hq)
    exact ⟨hport, fun i hi => hport.trans (issuePort_ok hi), fun e he => hport.trans (issuePort_error he)⟩
  · exact (step_of_sched hsch).trans (hostStep_of_rxq (s := { s with sched := rest }) hpos hq hser hrx)
  · rw [step_of_sched hsch, afterEvent, if_pos hw]
    exact hostStep_of_hostWaits (s := { s with sched := rest }) hw
  · rw [step_of_sched hsch, afterEvent, if_neg (by simp [hw]), ← hsch]
    rfl

end Sys2Proof
end

section
/-! PROOFS. The serial host's micro-steps (20_memory.md R56): inside a script a step of the host is the script's next
micro-step, and what a micro-step answers is what its act answers. -/

namespace Sys2Proof.Machine

variable {s t : State}

/-- Inside a script the host takes its next micro-step. -/
theorem hostStep_of_hostPos {m : HostMicro} {ms : List HostMicro} (hpos : s.hostPos = m :: ms) :
    hostStep s = runMicro m { s with hostPos := ms } := by
  simp only [hostStep, hpos]

/-- When the schedule names the host inside a script, the step is the script's next micro-step. -/
theorem step_of_script {rest : List Event} {m : HostMicro} {ms : List HostMicro} (hsch : s.sched = .host :: rest)
    (hpos : s.hostPos = m :: ms) : step s = runMicro m { s with sched := rest, hostPos := ms } :=
  (step_of_sched hsch).trans (hostStep_of_hostPos (s := { s with sched := rest }) hpos)

/-- A micro-step whose act answers a next state makes its private update or choice there. -/
theorem runMicro_of_next {m : HostMicro} (h : runAct m.act s = .next t) :
    runMicro m s = .next (applyThen m.andThen t) := by
  simp only [runMicro, h]

/-- A micro-step whose act faults ends in that fault. -/
theorem runMicro_of_fault {m : HostMicro} {f : Fault} (h : runAct m.act s = .fault f) : runMicro m s = .fault f := by
  simp only [runMicro, h]

/-- A TX appends its byte. -/
theorem runAct_of_tx {a : HostAct} {b : Byte} (h : a = .tx b) : runAct a s = .next { s with txq := s.txq ++ [b] } := by
  rw [h]; rfl

/-- A port operation puts its word at the port. -/
theorem runAct_of_port {a : HostAct} {w : PortWord} (h : a = .port w) : runAct a s = issuePort w s := by
  rw [h]; rfl

end Sys2Proof.Machine

namespace Sys2Proof

open Machine

/-- Settles O45: the step is one `runMicro`, and the clauses are the answers its act can give: a TX, a word that
runs, a word that faults. -/
theorem stepRunsTheNextMicroStep : Obligations.StepRunsTheNextMicroStep := by
  intro s rest m ms hsch hpos
  rw [step_of_script hsch hpos]
  refine ⟨fun b hact => ?_, fun w i t hact hdec hexec => ?_, fun w f hact hfault => ?_⟩
  · exact runMicro_of_next (runAct_of_tx hact)
  · exact runMicro_of_next ((runAct_of_port hact).trans ((issuePort_ok hdec).trans hexec))
  · exact runMicro_of_fault ((runAct_of_port hact).trans hfault)

end Sys2Proof
end

section
/-! PROOFS. The encoding (30_encoding.md): decoding and encoding are inverse to each other, the three reserved
conditions of a PORT word in their order (R74), and the classes of a serial byte with their operands (R75 to R77). -/

namespace Sys2Proof

/-! Serial bytes: a digit's byte is 0x30 plus its operand -/

/-- The byte of STAGE_STATE d is 0x30 + d (30_encoding.md R75, R76). -/
theorem stateDigit_toNat (d : BitVec 3) : (0b00110#5 ++ d).toNat = 0x30 + d.toNat := by revert d; decide

/-- The byte of ENTRY_DIGIT d is 0x30 + d (30_encoding.md R77). -/
theorem decimalDigit_toNat (d : BitVec 4) : (0b0011#4 ++ d).toNat = 0x30 + d.toNat := by revert d; decide

/-- Of the bytes '1'..'7' the low three bits are b - 0x30 (30_encoding.md R76). -/
theorem stateDigit_low {b : Byte} (h : isStateDigit b = true) : (b.extractLsb' 0 3).toNat = b.toNat - 0x30 := by
  simp only [isStateDigit, decide_eq_true_eq] at h
  simp only [BitVec.extractLsb'_toNat, Nat.shiftRight_zero]
  omega

/-- Of the bytes '0'..'9' the low four bits are b - 0x30 (30_encoding.md R77). -/
theorem decimalDigit_low {b : Byte} (h : isDecimalDigit b = true) : (b.extractLsb' 0 4).toNat = b.toNat - 0x30 := by
  simp only [isDecimalDigit, decide_eq_true_eq] at h
  simp only [BitVec.extractLsb'_toNat, Nat.shiftRight_zero]
  omega

/-- The class of a byte '1'..'7' in Idle. -/
theorem decodeIdle_of_digit {b : Byte} (h : isStateDigit b = true) : decodeIdle b = .stageState (b.extractLsb' 0 3) := by
  simp only [decodeIdle, h, if_true]

/-- The class of a byte '0'..'9' in AwaitingDigitEntry. -/
theorem decodeEntry_of_digit {b : Byte} (h : isDecimalDigit b = true) :
    decodeEntry b = .entryDigit (b.extractLsb' 0 4) := by
  simp only [decodeEntry, h, if_true]

/-- A byte received in Idle is the encoding of its class. -/
theorem encode_decodeIdle (b : Byte) : encode (decodeIdle b) = .serIdle b := by
  by_cases hdigit : isStateDigit b = true
  · have hlow := stateDigit_low hdigit
    rw [decodeIdle_of_digit hdigit]
    refine congrArg Encoding.serIdle (BitVec.eq_of_toNat_eq ?_)
    simp only [isStateDigit, decide_eq_true_eq] at hdigit
    rw [stateDigit_toNat, hlow]
    omega
  · rw [decodeIdle, if_neg hdigit]
    split_ifs with hconfirm htoggle hnepp
    · rw [hconfirm]; rfl
    · rw [htoggle]; rfl
    · rw [hnepp]; rfl
    · rfl

/-- A byte received in AwaitingDigitEntry is the encoding of its class. -/
theorem encode_decodeEntry (b : Byte) : encode (decodeEntry b) = .serEntry b := by
  by_cases hdigit : isDecimalDigit b = true
  · have hlow := decimalDigit_low hdigit
    rw [decodeEntry_of_digit hdigit]
    refine congrArg Encoding.serEntry (BitVec.eq_of_toNat_eq ?_)
    simp only [isDecimalDigit, decide_eq_true_eq] at hdigit
    rw [decimalDigit_toNat, hlow]
    omega
  · rw [decodeEntry, if_neg hdigit]; rfl

/-! PORT words: when the reserved-bits check fails -/

/-- A reserved-bits check that fails names the word, and RSV or the padding is not 0. -/
theorem checkReserved_error {w : PortWord} {pad : Bool} {i : Instr} {e : DecodeError}
    (h : checkReserved w pad i = .error e) : e = .reservedBits w ∧ (PortWord.rsv w ≠ 0#4 ∨ pad ≠ true) := by
  unfold checkReserved at h
  split_ifs at h with hok
  exact ⟨(Except.error.inj h).symm, not_and_or.1 hok⟩

/-- DATA[7:3] = 0, as the mask of R72 says it. -/
theorem statePad_iff (v : BitVec 8) : v.extractLsb' 3 5 = 0#5 ↔ v &&& 0xF8#8 = 0#8 := by revert v; decide

/-- DATA[7:1] = 0, as the mask of R72 says it. -/
theorem bitPad_iff (v : BitVec 8) : v.extractLsb' 1 7 = 0#7 ↔ v &&& 0xFE#8 = 0#8 := by revert v; decide

/-- DATA = 0, as the mask of R72 says it. -/
theorem nonePad_iff (v : BitVec 8) : v = 0#8 ↔ v &&& 0xFF#8 = 0#8 := by revert v; decide

/-- A state operand is at the low end of DATA. -/
theorem data_low (w : PortWord) : w.extractLsb' 0 3 = (PortWord.data w).extractLsb' 0 3 := by
  apply BitVec.eq_of_toNat_eq
  simp only [PortWord.data, BitVec.extractLsb'_toNat, Nat.shiftRight_zero]
  omega

end Sys2Proof

namespace Sys2Proof.Machine

/-! The conditions of R74 on the words of the encoder -/

/-- Condition 1 of R74 on a word {OP, 0x0, DATA}. -/
@[simp] theorem hasReservedOp_mkPort (o : BitVec 4) (d : BitVec 8) :
    HasReservedOp (mkPort o d) ↔ o = 0x0#4 ∨ o = 0x6#4 ∨ o = 0x7#4 ∨ o = 0xF#4 := by
  have hop : (mkPort o d).extractLsb' 12 4 = o := op_mkPort o d
  rw [HasReservedOp, hop]

/-- Condition 1 of R74 on a word of a reserved OP. -/
@[simp] theorem hasReservedOp_mkReserved (o : BitVec 4) (x : BitVec 12) :
    HasReservedOp (mkReserved o x) ↔ o = 0x0#4 ∨ o = 0x6#4 ∨ o = 0x7#4 ∨ o = 0xF#4 := by
  have hop : (mkReserved o x).extractLsb' 12 4 = o := op_mkReserved o x
  rw [HasReservedOp, hop]

/-- Condition 2 of R74 on a word {OP, 0x0, DATA}. -/
@[simp] theorem hasReservedBits_mkPort (o : BitVec 4) (d : BitVec 8) :
    HasReservedBits (mkPort o d) ↔ d &&& zeroMask o ≠ 0#8 := by
  have hop : (mkPort o d).extractLsb' 12 4 = o := op_mkPort o d
  have hrsv : (mkPort o d).extractLsb' 8 4 = 0#4 := rsv_mkPort o d
  have hdata : (mkPort o d).extractLsb' 0 8 = d := data_mkPort o d
  simp [HasReservedBits, hop, hrsv, hdata]

/-- Condition 3 of R74 on a word {OP, 0x0, DATA}. -/
@[simp] theorem hasStateOutOfRange_mkPort (o : BitVec 4) (d : BitVec 8) :
    HasStateOutOfRange (mkPort o d) ↔ (o = 0x1#4 ∨ o = 0x2#4) ∧ d.extractLsb' 0 3 = 0#3 := by
  have hop : (mkPort o d).extractLsb' 12 4 = o := op_mkPort o d
  rw [HasStateOutOfRange, hop, data_low, data_mkPort]

/-- A word whose OP o is not reserved and whose padding is checked as R72 has it for o: when the check fails, the word
meets condition 2 of R74 and not condition 1. -/
theorem reservedBits_of_check {w : PortWord} {o : BitVec 4} {pad : Bool} {i : Instr} {e : DecodeError}
    (hop : PortWord.op w = o) (hrow : ¬ (o = 0x0#4 ∨ o = 0x6#4 ∨ o = 0x7#4 ∨ o = 0xF#4))
    (hpad : pad = true ↔ PortWord.data w &&& zeroMask o = 0#8) (h : checkReserved w pad i = .error e) :
    e = .reservedBits w ∧ ¬ HasReservedOp w ∧ HasReservedBits w := by
  obtain ⟨he, hbits⟩ := checkReserved_error h
  subst hop
  exact ⟨he, hrow, hbits.imp_right (mt hpad.2)⟩

/-- A word that decodes to nothing has no reserved OP, and RSV or a DATA bit that must be 0 is not 0. -/
theorem decodePort_error {w : PortWord} {e : DecodeError} (h : decodePort w = .error e) :
    e = .reservedBits w ∧ ¬ HasReservedOp w ∧ HasReservedBits w := by
  have hstate (v : BitVec 8) : decide (v.extractLsb' 3 5 = 0#5) = true ↔ v &&& 0xF8#8 = 0#8 :=
    decide_eq_true_iff.trans (statePad_iff v)
  have hflag (v : BitVec 8) : decide (v.extractLsb' 1 7 = 0#7) = true ↔ v &&& 0xFE#8 = 0#8 :=
    decide_eq_true_iff.trans (bitPad_iff v)
  have hbyte (v : BitVec 8) : true = true ↔ v &&& 0x00#8 = 0#8 := by simp
  have hnone (v : BitVec 8) : decide (v = 0#8) = true ↔ v &&& 0xFF#8 = 0#8 :=
    decide_eq_true_iff.trans (nonePad_iff v)
  simp only [decodePort, ite_eq_iff, reduceCtorEq, and_false, false_or, or_false] at h
  obtain ⟨-, ⟨hop, h⟩ | ⟨-, ⟨hop, h⟩ | ⟨-, ⟨hop, h⟩ | ⟨-, ⟨hop, h⟩ | ⟨-, ⟨hop, h⟩ | ⟨-, -, -, hread⟩⟩⟩⟩⟩⟩ := h
  · exact reservedBits_of_check hop (by decide) (hstate _) h
  · exact reservedBits_of_check hop (by decide) (hstate _) h
  · exact reservedBits_of_check hop (by decide) (hbyte _) h
  · exact reservedBits_of_check hop (by decide) (hflag _) h
  · exact reservedBits_of_check hop (by decide) (hflag _) h
  · obtain ⟨hop, h⟩ | ⟨-, ⟨hop, h⟩ | ⟨-, ⟨hop, h⟩ | ⟨-, ⟨hop, h⟩ | ⟨-, ⟨hop, h⟩ | ⟨-, ⟨hop, h⟩ | ⟨-, hop, h⟩⟩⟩⟩⟩⟩ := hread
    all_goals exact reservedBits_of_check hop (by decide) (hnone _) h

/-- The word of a state operand d meets none of R74's conditions but the third, and that one exactly when d = 0, where
the state-range check stops. -/
theorem stateRangeChecked_conditions {o : BitVec 4} (ho : o = 0x1#4 ∨ o = 0x2#4) (d : BitVec 3) {w : PortWord}
    (hw : w = mkPort o (stateData d)) (u : State) :
    ¬ HasReservedOp w ∧ ¬ HasReservedBits w ∧
      ((HasStateOutOfRange w ∧ stateRangeChecked d w u = .fault (.stateRange w)) ∨
       (¬ HasStateOutOfRange w ∧ ∃ t, stateRangeChecked d w u = .next t)) := by
  have hpad : stateData d &&& 0xF8#8 = 0#8 := (statePad_iff _).1 (stateData_pad d)
  subst hw
  refine ⟨by rcases ho with rfl | rfl <;> simp, by simp [zeroMask, ho, hpad], ?_⟩
  by_cases hd : d = 0#3
  · exact .inl ⟨by simp [ho, stateData_val, hd], if_pos hd⟩
  · exact .inr ⟨by simp [stateData_val, hd], u, if_neg hd⟩

/-- What a row of the PORT format does in every state, by the conditions its word meets: a reserved row stops with
RESERVED_OP, a state operand 0 with STATE_RANGE, and any other row answers a next state. -/
theorem exec_port_conditions {i : Instr} {w : PortWord} (h : encode i = .port w) (s : State) :
    (HasReservedOp w ∧ exec i s = .fault (.reservedOp w)) ∨
    (¬ HasReservedOp w ∧ ¬ HasReservedBits w ∧
      ((HasStateOutOfRange w ∧ exec i s = .fault (.stateRange w)) ∨
       (¬ HasStateOutOfRange w ∧ ∃ t, exec i s = .next t))) := by
  have hpad (b : BitVec 1) : bitData b &&& 0xFE#8 = 0#8 := (bitPad_iff _).1 (bitData_pad b)
  cases i <;> simp only [encode, Encoding.port.injEq, reduceCtorEq] at h <;> subst h
  case apply d => exact .inr (stateRangeChecked_conditions (.inl rfl) d rfl _)
  case wrstate d => exact .inr (stateRangeChecked_conditions (.inr rfl) d rfl _)
  case wrreact b => exact .inr ⟨by simp, by simp [zeroMask, hpad], .inr ⟨by simp, _, rfl⟩⟩
  case wrline b => exact .inr ⟨by simp, by simp [zeroMask, hpad], .inr ⟨by simp, _, rfl⟩⟩
  case reservedOp0 x => exact .inl ⟨by simp, rfl⟩
  case reservedOp6 x => exact .inl ⟨by simp, rfl⟩
  case reservedOp7 x => exact .inl ⟨by simp, rfl⟩
  case reservedOpF x => exact .inl ⟨by simp, rfl⟩
  all_goals exact .inr ⟨by simp, by simp [zeroMask], .inr ⟨by simp, _, rfl⟩⟩

/-- What a PORT word answers, by the first condition of R74 that it meets. -/
theorem issuePort_conditions (w : PortWord) (s : State) :
    (HasReservedOp w ∧ issuePort w s = .fault (.reservedOp w)) ∨
    (¬ HasReservedOp w ∧
      ((HasReservedBits w ∧ issuePort w s = .fault (.reservedBits w)) ∨
       (¬ HasReservedBits w ∧
         ((HasStateOutOfRange w ∧ issuePort w s = .fault (.stateRange w)) ∨
          (¬ HasStateOutOfRange w ∧ ∃ t, issuePort w s = .next t))))) := by
  cases hdec : decodePort w with
  | error e =>
    obtain ⟨rfl, hop, hbits⟩ := decodePort_error hdec
    exact .inr ⟨hop, .inl ⟨hbits, issuePort_error hdec⟩⟩
  | ok i =>
    rw [issuePort_ok hdec]
    rcases exec_port_conditions (decodePort_ok hdec).2 s with hres | ⟨hop, hbits, hrange⟩
    · exact .inl hres
    · exact .inr ⟨hop, .inr ⟨hbits, hrange⟩⟩

end Sys2Proof.Machine

namespace Sys2Proof

open Machine

/-- Settles O1, by the round trip of each row. -/
theorem decodeOfEncodeIsIdentity : Obligations.DecodeOfEncodeIsIdentity := by
  intro i
  cases i with
  | apply d => exact Laws.RoundTrip.apply d
  | wrstate d => exact Laws.RoundTrip.wrstate d
  | wrnepp n => exact Laws.RoundTrip.wrnepp n
  | wrreact b => exact Laws.RoundTrip.wrreact b
  | wrline b => exact Laws.RoundTrip.wrline b
  | rdstate => exact Laws.RoundTrip.rdstate
  | rdnepp => exact Laws.RoundTrip.rdnepp
  | rdcount => exact Laws.RoundTrip.rdcount
  | rdreact => exact Laws.RoundTrip.rdreact
  | rdline => exact Laws.RoundTrip.rdline
  | rdpins => exact Laws.RoundTrip.rdpins
  | rdpend => exact Laws.RoundTrip.rdpend
  | reservedOp0 x => exact Laws.RoundTrip.reservedOp0 x
  | reservedOp6 x => exact Laws.RoundTrip.reservedOp6 x
  | reservedOp7 x => exact Laws.RoundTrip.reservedOp7 x
  | reservedOpF x => exact Laws.RoundTrip.reservedOpF x
  | stageState d => exact Laws.RoundTrip.stageState d
  | confirm => exact Laws.RoundTrip.confirm
  | stageToggle => exact Laws.RoundTrip.stageToggle
  | stageNepp => exact Laws.RoundTrip.stageNepp
  | stageNop c => exact Laws.RoundTrip.stageNop c
  | entryDigit d => exact Laws.RoundTrip.entryDigit d
  | entryIgnore c => exact Laws.RoundTrip.entryIgnore c
  | trig => exact Laws.RoundTrip.trig
  | reset => exact Laws.RoundTrip.reset
  | service => exact Laws.RoundTrip.service

/-- Settles O2: a PORT word by `decodePort_ok`, a byte by its class in the mode of its format. -/
theorem decodedWordReencodes : Obligations.DecodedWordReencodes := by
  intro e i h
  cases e with
  | port w => exact (decodePort_ok h).2
  | serIdle b => cases h; exact encode_decodeIdle b
  | serEntry b => cases h; exact encode_decodeEntry b
  | bitless r => cases r <;> cases h <;> rfl

/-- Settles O4: the cases of `issuePort_conditions` are the clauses, each excluding the others. -/
theorem reservedPortWordsFaultInOrder : Obligations.ReservedPortWordsFaultInOrder := by
  intro w s
  rcases issuePort_conditions w s with ⟨hop, h⟩ | ⟨hop, ⟨hbits, h⟩ | ⟨hbits, ⟨hrange, h⟩ | ⟨hrange, h⟩⟩⟩
  · simp [hop, h]
  · simp [hop, hbits, h]
  · simp [hop, hbits, hrange, h]
  · simp [hop, hbits, hrange, h]

/-- Settles O3, by running the decoder on each word. -/
theorem tableWordsDecodeToTheirRows : Obligations.TableWordsDecodeToTheirRows := by
  unfold Obligations.TableWordsDecodeToTheirRows
  decide

/-- Settles O6: the meaning of a reserved row is the fault, and the word it records is its encoding. -/
theorem reservedRowsStopWithReservedOp : Obligations.ReservedRowsStopWithReservedOp :=
  fun _ _ => ⟨rfl, rfl, rfl, rfl⟩

/-- Settles O7: the digits first, then each byte with a row of its own, then the rest. -/
theorem idleBytesAreClassedInOrder : Obligations.IdleBytesAreClassedInOrder := by
  intro b
  refine ⟨fun hlo hhi => ?_, fun h => by rw [h]; rfl, fun h => by rw [h]; rfl, fun h => by rw [h]; rfl,
    fun hdigit hconfirm htoggle hnepp => ?_⟩
  · have hdigit : isStateDigit b = true := decide_eq_true ⟨hlo, hhi⟩
    have hval := stateDigit_low hdigit
    refine ⟨_, decodeIdle_of_digit hdigit, hval, fun hzero => ?_⟩
    rw [hzero, BitVec.toNat_zero] at hval
    omega
  · have hno : isStateDigit b = false := decide_eq_false hdigit
    simp only [decodeSerial, decodeIdle, hno, hconfirm, htoggle, hnepp, if_false, Bool.false_eq_true]

/-- Settles O8: the byte is a decimal digit, whose operand is b - 0x30, or it is ignored. -/
theorem entryBytesAreClassed : Obligations.EntryBytesAreClassed := by
  intro b
  refine ⟨fun hlo hhi => ?_, fun hdigit => ?_⟩
  · have hdigit : isDecimalDigit b = true := decide_eq_true ⟨hlo, hhi⟩
    have hval := decimalDigit_low hdigit
    exact ⟨_, decodeEntry_of_digit hdigit, hval, by omega⟩
  · have hno : isDecimalDigit b = false := decide_eq_false hdigit
    simp only [decodeSerial, decodeEntry, hno, if_false, Bool.false_eq_true]

end Sys2Proof
end

section
/-! PROOFS. The output decoder (40_output_decoder.md): the bits that decode(s) drives, APPLY, and who writes PINS. -/

namespace Sys2Proof.Machine

variable {s t : State}

/-! The bits of decode(s) -/

/-- Each pin is driven by one bit of the code c = s - 1, and both members of a switch-pair by the same one
(40_output_decoder.md R100). -/
theorem pinsOf_bits (d : BitVec 3) :
    (pinsOf d).getLsbD 0 = (d - 1#3).getLsbD 0 ∧ (pinsOf d).getLsbD 1 = (d - 1#3).getLsbD 1 ∧
    (pinsOf d).getLsbD 2 = (d - 1#3).getLsbD 1 ∧ (pinsOf d).getLsbD 3 = (d - 1#3).getLsbD 2 ∧
    (pinsOf d).getLsbD 4 = (d - 1#3).getLsbD 2 := by
  simp only [pinsOf]
  generalize d - 1#3 = c
  revert c; decide

/-- For a state that is not 0 the code s - 1 does not wrap. -/
theorem code_toNat {d : BitVec 3} (hd : d ≠ 0#3) : (d - 1#3).toNat = d.toNat - 1 := by bv_omega

/-- The members of a switch-pair agree in every value of the decoder (40_output_decoder.md R104). -/
theorem pairedPins_pinsOf (d : BitVec 3) : PairedPins (pinsOf d) := by
  obtain ⟨-, hright1, hleft2, hleft1, hright2⟩ := pinsOf_bits d
  exact ⟨hright1.trans hleft2.symm, hleft1.trans hright2.symm⟩

/-- The code 0b111, all five pins asserted, belongs to no state in 1..7 (40_output_decoder.md R105). -/
theorem pinsOf_ne_allAsserted {d : BitVec 3} (hd : d ≠ 0#3) : pinsOf d ≠ 0x1F#5 := by revert d; decide

/-! APPLY -/

/-- APPLY of a state in range writes PINS only (40_output_decoder.md R101). -/
theorem exec_apply {d : BitVec 3} (hd : d ≠ 0#3) (s : State) :
    exec (.apply d) s = .next { s with pins := pinsOf d } :=
  stateRangeChecked_next.2 ⟨hd, rfl⟩

/-! Who writes PINS (10_state.md R29) -/

/-- A PORT word leaves PINS, or is an APPLY and drives them. -/
theorem issuePort_pins {w : PortWord} (h : issuePort w s = .next t) :
    t.pins = s.pins ∨ ∃ d : BitVec 3, d ≠ 0#3 ∧ decodePort w = .ok (.apply d) ∧ t.pins = pinsOf d := by
  obtain ⟨i, hi, hp, he⟩ := issuePort_next h
  rcases exec_port_cases hp he with ⟨d, hd, rfl, rfl⟩ | ⟨_, _, _, rfl⟩ | ⟨_, _, rfl⟩ | ⟨_, _, rfl⟩ | ⟨_, _, rfl⟩ | ⟨_, _, rfl⟩
  case inl => exact .inr ⟨d, hd, hi, rfl⟩
  all_goals exact .inl rfl

/-- A step of the host leaves PINS or drives them for a state that is not 0. -/
theorem hostStep_pins (h : hostStep s = .next t) : t.pins = s.pins ∨ ∃ d : BitVec 3, d ≠ 0#3 ∧ t.pins = pinsOf d := by
  have hport {w : PortWord} {u v : State} (hi : issuePort w u = .next v) :
      v.pins = u.pins ∨ ∃ d : BitVec 3, d ≠ 0#3 ∧ v.pins = pinsOf d :=
    (issuePort_pins hi).imp_right fun ⟨d, hd, _, hpins⟩ => ⟨d, hd, hpins⟩
  rcases hostStep_cases h with ⟨m, rest, -, hm⟩ | ⟨-, w, ws, -, hi⟩ | ⟨-, -, -, b, bs, -, he⟩ | ⟨-, rfl⟩
  · obtain ⟨u, hu, rfl⟩ := runMicro_next hm
    cases ha : m.act with
    | tx b => rw [ha] at hu; cases hu; simp
    | port w => rw [ha] at hu; simpa using hport hu
  · exact hport (u := { s with portq := ws }) hi
  · obtain ⟨_, _, _, _, hx⟩ := exec_serial_next s.mode b { s with rxq := bs }
    rw [hx] at he; cases he; exact .inl rfl
  · exact .inl rfl

/-- PINS after a SERVICE: those of the successor when the threshold is reached, else unchanged (40_output_decoder.md
R102). -/
theorem serviceTrigger_pins (s : State) :
    (serviceTrigger s).pins = if NextServiceAdvances s then pinsOf (succState s.state) else s.pins := by
  by_cases h : NextServiceAdvances s
  · rw [serviceTrigger_reached h, if_pos h]; simp [advance]
  · rw [serviceTrigger_below h, if_neg h]

/-- A step that is no RESET leaves PINS or drives them for a state that is not 0: the writers are APPLY and an advance. -/
theorem step_pins (hr : NotReset s) (h : step s = .next t) :
    t.pins = s.pins ∨ ∃ d : BitVec 3, d ≠ 0#3 ∧ t.pins = pinsOf d := by
  rcases step_writer h with ⟨hhd, -⟩ | ⟨_, _, _, _, _, _, _, -, rfl⟩ | ⟨-, sc, n, rfl⟩ | ⟨-, sc, n, hh⟩
  · exact absurd hhd hr
  · exact .inl rfl
  · rw [serviceTrigger_pins]
    split
    · exact .inr ⟨_, succState_ne_zero _, rfl⟩
    · exact .inl rfl
  · exact hostStep_pins (s := taken s sc n) hh

end Sys2Proof.Machine

namespace Sys2Proof

open Machine

/-- Settles O52: PINS stay, or are a value of the decoder, whose pairs agree and which never asserts all five pins. -/
theorem pinsAreNeverAPartialPair : Obligations.PinsAreNeverAPartialPair := by
  intro s t hr h
  rcases step_pins hr h with heq | ⟨d, hd, heq⟩
  · exact ⟨.inl heq, fun hpaired => by rwa [heq]⟩
  · have hpaired : PairedPins t.pins := heq ▸ pairedPins_pinsOf d
    exact ⟨.inr ⟨⟨d, hd, heq⟩, hpaired, heq ▸ pinsOf_ne_allAsserted hd⟩, fun _ => hpaired⟩

/-- Settles O9: the bits by `pinsOf_bits`, with the code read as the number s - 1; the table by evaluation. -/
theorem decoderDrivesTheSwitchPairs : Obligations.DecoderDrivesTheSwitchPairs := by
  refine ⟨fun d hd => ?_, by decide⟩
  rw [← code_toNat hd]
  simpa only [BitVec.testBit_toNat] using pinsOf_bits d

/-- Settles O10: a state in range by `exec_apply`; 0 fails the range check. -/
theorem applyWritesPinsOnly : Obligations.ApplyWritesPinsOnly :=
  fun s => ⟨fun _ hd => exec_apply hd s, rfl⟩

/-- Settles O11: the second APPLY writes the value that PINS already hold. -/
theorem applyIsIdempotent : Obligations.ApplyIsIdempotent :=
  fun _ s hd => ⟨_, _, exec_apply hd s, exec_apply hd _, rfl, rfl⟩

end Sys2Proof
end

section
/-! PROOFS. The trigger latch and the pulse counter (41_trigger_counter.md): TRIG, SERVICE with its whole next state
in each mode, the distance to the next advance, and runs of pulses. -/

namespace Sys2Proof.Machine

variable {s t : State}

/-! The latch -/

/-- An edge is latched while REACT = 1 or with LATCH_WHILE_DISABLED (41_trigger_counter.md R111, R114). -/
theorem exec_trig_of_latched (h : s.react = 1#1 ∨ s.cfg.latchWhileDisabled = true) :
    exec .trig s = .next { s with pend := 1#1 } := by
  simp [exec, execTrig, latchTrigger, latchesTrigger, h]

/-- An edge is lost with REACT = 0 and no LATCH_WHILE_DISABLED (41_trigger_counter.md R111, R114). -/
theorem exec_trig_of_lost (hreact : s.react ≠ 1#1) (hlatch : s.cfg.latchWhileDisabled = false) :
    exec .trig s = .next s := by
  simp [exec, execTrig, latchTrigger, latchesTrigger, hreact, hlatch]

/-- An edge while PEND = 1 is merged: setting PEND again changes nothing (41_trigger_counter.md R112). -/
theorem exec_trig_of_pend (h : s.pend = 1#1) : exec .trig s = .next s := by
  have hset : { s with pend := 1#1 } = s := by rw [← h]
  simp [exec, execTrig, latchTrigger, hset]

/-! SERVICE -/

/-- SERVICE is enabled with PEND = 1 and REACT = 1 (41_trigger_counter.md R115). -/
theorem serviceEnabled_iff : serviceEnabled s = true ↔ s.pend = 1#1 ∧ s.react = 1#1 := by simp [serviceEnabled]

/-- An enabled SERVICE runs the trigger handler. -/
theorem exec_service_of_enabled (h : serviceEnabled s = true) : exec .service s = .next (serviceTrigger s) := by
  simp only [exec, execService, if_pos h]

/-- A SERVICE that is not enabled stands still (log entry 7). -/
theorem exec_service_of_disabled (h : serviceEnabled s = false) : exec .service s = .next s := by
  simp [exec, execService, h]

/-- Closing an open line writes LINE and TXQ (41_trigger_counter.md R122). -/
theorem closeHeldLine_eq (s : State) :
    closeHeldLine s = { s with line := 0#1, txq := s.txq ++ (if s.line = 1#1 then [newline] else []) } := by
  ext1 <;> simp

/-- The next state of a SERVICE at the threshold, over the count `c` and the threshold `n` that R119 leaves
(41_trigger_counter.md R116 to R124). -/
theorem serviceTrigger_advance {c : Nat} {n : BitVec 8} (h : NextServiceAdvances s)
    (hreset : resetOnAdvance (countPulse s) = { s with ntrig := c, nepp := n }) :
    serviceTrigger s = { s with
      ntrig := c, nepp := n, state := succState s.state, pins := pinsOf (succState s.state), line := 0#1, pend := 0#1,
      txq := s.txq ++ (if s.line = 1#1 then [newline] else []) ++ msgStatus (succState s.state).toNat ++
        msgReadout c } := by
  rw [serviceTrigger_reached h, advance, hreset, closeHeldLine_eq]
  rfl

/-- In COUNTER mode an advance restarts the count and leaves the threshold (41_trigger_counter.md R119). -/
theorem resetOnAdvance_counter (hm : s.cfg.threshMode = .counter) :
    resetOnAdvance (countPulse s) = { s with ntrig := 0, nepp := s.nepp } := by
  simp [resetOnAdvance, hm, countPulse]

/-- In LEGACY mode an advance clears the threshold and leaves the count, which has just reached it
(41_trigger_counter.md R119). -/
theorem resetOnAdvance_legacy (h : NextServiceAdvances s) (hm : s.cfg.threshMode = .legacy) :
    resetOnAdvance (countPulse s) = { s with ntrig := s.nepp.toNat, nepp := 0#8 } := by
  simp [resetOnAdvance, hm, countPulse, h]

/-- A SERVICE at the threshold, in either mode, up to the bytes it transmits. -/
theorem serviceTrigger_advances (h : NextServiceAdvances s) :
    ∃ c n q, serviceTrigger s = { s with
        ntrig := c, nepp := n, state := succState s.state, pins := pinsOf (succState s.state), line := 0#1,
        pend := 0#1, txq := q } ∧
      (s.cfg.threshMode = .counter → c = 0 ∧ n = s.nepp) ∧
      (s.cfg.threshMode = .legacy → c = s.nepp.toNat ∧ n = 0#8) := by
  cases hm : s.cfg.threshMode with
  | counter => exact ⟨_, _, _, serviceTrigger_advance h (resetOnAdvance_counter hm), by simp⟩
  | legacy => exact ⟨_, _, _, serviceTrigger_advance h (resetOnAdvance_legacy h hm), by simp⟩

/-- SERVICE does not look at PEND. -/
theorem serviceTrigger_pend (s : State) (p : BitVec 1) : serviceTrigger { s with pend := p } = serviceTrigger s := by
  by_cases h : NextServiceAdvances s
  · cases hm : s.cfg.threshMode with
    | counter =>
      rw [serviceTrigger_advance h (resetOnAdvance_counter hm),
        serviceTrigger_advance (s := { s with pend := p }) h (resetOnAdvance_counter hm)]
    | legacy =>
      rw [serviceTrigger_advance h (resetOnAdvance_legacy h hm),
        serviceTrigger_advance (s := { s with pend := p }) h (resetOnAdvance_legacy h hm)]
  · rw [serviceTrigger_below h, serviceTrigger_below (s := { s with pend := p }) h]

/-! The distance to the next advance -/

/-- From a count below the threshold the distance is their difference (41_trigger_counter.md R130). -/
theorem pulsesToAdvance_of_lt {w k m : Nat} (hm : m < 2 ^ w) (h : k < m) : pulsesToAdvance w k m = m - k := by
  have hsum : m + 2 ^ w - k - 1 = m - k - 1 + 2 ^ w := by omega
  rw [pulsesToAdvance, hsum, Nat.add_mod_right, Nat.mod_eq_of_lt (by omega)]
  omega

/-- From a count at or above the threshold the count wraps first (41_trigger_counter.md R126, R127). -/
theorem pulsesToAdvance_of_le {w k m : Nat} (hk : k < 2 ^ w) (h : m ≤ k) :
    pulsesToAdvance w k m = 2 ^ w - k + m := by
  rw [pulsesToAdvance, Nat.mod_eq_of_lt (by omega)]
  omega

/-- Up to the distance, the count reaches the threshold exactly there. -/
theorem count_reaches_iff {w k m j : Nat} (hk : k < 2 ^ w) (hm : m < 2 ^ w) (hj : j < pulsesToAdvance w k m) :
    ((k + j) % 2 ^ w + 1) % 2 ^ w = m ↔ j + 1 = pulsesToAdvance w k m := by
  rw [Nat.mod_add_mod]
  rcases lt_or_ge k m with h | h
  · rw [pulsesToAdvance_of_lt hm h] at hj ⊢
    rw [Nat.mod_eq_of_lt (by omega)]
    omega
  · rw [pulsesToAdvance_of_le hk h] at hj ⊢
    rcases lt_or_ge (k + j + 1) (2 ^ w) with hlt | hge
    · rw [Nat.mod_eq_of_lt hlt]
      omega
    · rw [Nat.mod_eq_sub_mod hge, Nat.mod_eq_of_lt (by omega)]
      omega

/-- Every threshold is a value of the count, as W_CNT is at least the width of NEPP (00_scope.md R9). -/
theorem threshold_lt (hcfg : s.cfg.wf) (n : BitVec 8) : n.toNat < 2 ^ s.cfg.wCnt :=
  n.isLt.trans_le (Nat.pow_le_pow_right (by decide) hcfg.1)

/-! Runs of pulses -/

/-- With REACT = 1 a pulse is a SERVICE, whatever PEND holds. -/
theorem pulse_eq (h : s.react = 1#1) : pulse s = .next (serviceTrigger s) := by
  obtain ⟨htrig, hservice⟩ := pulse_body h
  rw [pulse, htrig, ← serviceTrigger_pend s 1#1]
  exact hservice

/-- One more pulse after a run of k. -/
theorem pulses_succ {k : Nat} (h : pulses k s = .next t) (hreact : t.react = 1#1) :
    pulses (k + 1) s = .next (serviceTrigger t) := by
  simp only [pulses, h, pulse_eq hreact]

/-- Before the distance, pulses only count. -/
theorem pulses_before_distance (hcfg : s.cfg.wf) (hntrig : s.ntrig < 2 ^ s.cfg.wCnt) (hreact : s.react = 1#1)
    {d : Nat} (hd : pulsesToAdvance s.cfg.wCnt s.ntrig s.nepp.toNat = d) {j : Nat} (hj : j < d) :
    ∃ p q, pulses j s = .next { s with ntrig := (s.ntrig + j) % 2 ^ s.cfg.wCnt, pend := p, txq := q } := by
  subst hd
  induction j with
  | zero => exact ⟨s.pend, s.txq, by simp [pulses, Nat.mod_eq_of_lt hntrig]⟩
  | succ j ih =>
    obtain ⟨p, q, hrun⟩ := ih (by omega)
    have hbelow := mt (count_reaches_iff hntrig (threshold_lt hcfg s.nepp) (by omega)).1 hj.ne
    have hcount : ((s.ntrig + j) % 2 ^ s.cfg.wCnt + 1) % 2 ^ s.cfg.wCnt = (s.ntrig + (j + 1)) % 2 ^ s.cfg.wCnt :=
      Nat.mod_add_mod ..
    rw [pulses_succ hrun hreact, serviceTrigger_below hbelow]
    exact ⟨_, _, by rw [hcount]⟩

/-- At the distance, the state advances. -/
theorem pulses_at_distance (hcfg : s.cfg.wf) (hntrig : s.ntrig < 2 ^ s.cfg.wCnt) (hreact : s.react = 1#1)
    {d : Nat} (hd : pulsesToAdvance s.cfg.wCnt s.ntrig s.nepp.toNat = d) :
    ∃ c n q, pulses d s = .next { s with
        ntrig := c, nepp := n, state := succState s.state, pins := pinsOf (succState s.state), line := 0#1,
        pend := 0#1, txq := q } ∧
      (s.cfg.threshMode = .counter → c = 0 ∧ n = s.nepp) ∧
      (s.cfg.threshMode = .legacy → c = s.nepp.toNat ∧ n = 0#8) := by
  obtain ⟨j, hj⟩ : ∃ j, d = j + 1 := ⟨_, hd.symm⟩
  obtain ⟨p, q, hrun⟩ := pulses_before_distance hcfg hntrig hreact hd (j := j) (by omega)
  have hreached := (count_reaches_iff hntrig (threshold_lt hcfg s.nepp) (by omega)).2 (hj.symm.trans hd.symm)
  rw [hj, pulses_succ hrun hreact]
  obtain ⟨c, n, q', hnext, hmodes⟩ := serviceTrigger_advances
    (s := { s with ntrig := (s.ntrig + j) % 2 ^ s.cfg.wCnt, pend := p, txq := q }) hreached
  exact ⟨c, n, q', congrArg _ hnext, hmodes⟩

/-- With NEPP = 0 pulses only count until the count wraps to 0 and the state advances, and NEPP stays 0 in both modes
(41_trigger_counter.md R126, R128). -/
theorem pulses_threshold_zero (hcfg : s.cfg.wf) (hntrig : s.ntrig < 2 ^ s.cfg.wCnt) (hreact : s.react = 1#1)
    (hnepp : s.nepp = 0#8) :
    (∀ j, j < 2 ^ s.cfg.wCnt - s.ntrig → ∃ t, pulses j s = .next t ∧ t.state = s.state ∧ t.nepp = 0#8) ∧
    ∃ t, pulses (2 ^ s.cfg.wCnt - s.ntrig) s = .next t ∧ t.state = succState s.state ∧ t.nepp = 0#8 ∧
      t.cfg = s.cfg ∧ t.react = 1#1 ∧ (s.cfg.threshMode = .counter → t.ntrig = 0) := by
  have hd : pulsesToAdvance s.cfg.wCnt s.ntrig s.nepp.toNat = 2 ^ s.cfg.wCnt - s.ntrig := by
    rw [hnepp]; exact pulsesToAdvance_of_le hntrig (Nat.zero_le _)
  refine ⟨fun j hj => ?_, ?_⟩
  · obtain ⟨p, q, hrun⟩ := pulses_before_distance hcfg hntrig hreact hd hj
    exact ⟨_, hrun, rfl, hnepp⟩
  · obtain ⟨c, n, q, hrun, hcounter, hlegacy⟩ := pulses_at_distance hcfg hntrig hreact hd
    have hn : n = 0#8 := by
      cases hm : s.cfg.threshMode with
      | counter => exact (hcounter hm).2.trans hnepp
      | legacy => exact (hlegacy hm).2
    exact ⟨_, hrun, rfl, hn, rfl, hreact, fun hm => (hcounter hm).1⟩

/-- With NTRIG = 0 and NEPP = 1 in COUNTER mode a pulse advances and leaves both (41_trigger_counter.md R130). -/
theorem pulse_threshold_one (hcfg : s.cfg.wf) (hreact : s.react = 1#1) (hm : s.cfg.threshMode = .counter)
    (hntrig : s.ntrig = 0) (hnepp : s.nepp = 1#8) :
    ∃ t, pulse s = .next t ∧ t.state = succState s.state ∧ t.ntrig = 0 ∧ t.nepp = 1#8 ∧ t.cfg = s.cfg ∧
      t.react = 1#1 := by
  have hone : 1 < 2 ^ s.cfg.wCnt := threshold_lt hcfg 1#8
  have hadv : NextServiceAdvances s := by
    simp [NextServiceAdvances, hntrig, hnepp, Nat.mod_eq_of_lt hone]
  obtain ⟨c, n, q, hnext, hcounter, -⟩ := serviceTrigger_advances hadv
  obtain ⟨rfl, rfl⟩ := hcounter hm
  exact ⟨_, (pulse_eq hreact).trans (congrArg _ hnext), rfl, rfl, hnepp, rfl, hreact⟩

/-- From NTRIG = 0 and NEPP = 1 in COUNTER mode a run of pulses leads back to them (41_trigger_counter.md R130). -/
theorem pulses_threshold_one (hcfg : s.cfg.wf) (hreact : s.react = 1#1) (hm : s.cfg.threshMode = .counter)
    (hntrig : s.ntrig = 0) (hnepp : s.nepp = 1#8) (j : Nat) :
    ∃ t, pulses j s = .next t ∧ t.ntrig = 0 ∧ t.nepp = 1#8 ∧ t.cfg = s.cfg ∧ t.react = 1#1 := by
  induction j with
  | zero => exact ⟨s, rfl, hntrig, hnepp, rfl, hreact⟩
  | succ j ih =>
    obtain ⟨t, hrun, ht0, ht1, htcfg, htreact⟩ := ih
    obtain ⟨u, hpulse, -, hu0, hu1, hucfg, hureact⟩ :=
      pulse_threshold_one (htcfg ▸ hcfg) htreact (htcfg ▸ hm) ht0 ht1
    exact ⟨u, by simp only [pulses, hrun, hpulse], hu0, hu1, hucfg.trans htcfg, hureact⟩

/-! The cycle of states -/

/-- The cycle of states below 7 (41_trigger_counter.md R120). -/
theorem succState_of_le {d : BitVec 3} (h : d.toNat + 1 ≤ 7) : (succState d).toNat = d.toNat + 1 := by
  rw [succState, if_pos h, BitVec.toNat_ofNat]
  omega

/-- The cycle of states starts again after 7 (41_trigger_counter.md R120). -/
theorem succState_of_not_le {d : BitVec 3} (h : ¬ d.toNat + 1 ≤ 7) : succState d = 1 := if_neg h

end Sys2Proof.Machine

namespace Sys2Proof

open Machine

/-- Settles O17: an edge while PEND = 1 is merged, so the state after one edge is the state after two. -/
theorem trigWhilePendingIsMerged : Obligations.TrigWhilePendingIsMerged := by
  refine fun s => ⟨exec_trig_of_pend, fun hreact => ?_⟩
  obtain ⟨htrig, hservice⟩ := pulse_body hreact
  have hpulse : pulse s = .next (serviceTrigger { s with pend := 1#1 }) := by rw [pulse, htrig]; exact hservice
  exact ⟨_, _, htrig, exec_trig_of_pend rfl, hservice, hpulse⟩

/-- Settles O18: the latch by the parameter; while REACT = 0 a SERVICE is not enabled, and REACT = 1 enables it. -/
theorem edgesWhileDisabledFollowTheParameter : Obligations.EdgesWhileDisabledFollowTheParameter := by
  refine fun s hreact => ⟨exec_trig_of_lost (by simp [hreact]), fun hlatch => ?_⟩
  exact ⟨_, _, exec_trig_of_latched (.inr hlatch), rfl, exec_trig_of_pend rfl,
    exec_service_of_disabled (serviceEnabled_of_react_zero hreact), rfl, serviceEnabled_iff.2 ⟨rfl, rfl⟩⟩

/-- Settles O21: SERVICE is enabled, and `serviceTrigger_below` is its whole next state. -/
theorem serviceBelowThresholdOnlyCounts : Obligations.ServiceBelowThresholdOnlyCounts := by
  intro s hpend hreact hbelow
  rw [exec_service_of_enabled (serviceEnabled_iff.2 ⟨hpend, hreact⟩), serviceTrigger_below hbelow]

/-- Settles O22: an advance with the count 0 and the threshold as it was. -/
theorem serviceAdvancesInCounterMode : Obligations.ServiceAdvancesInCounterMode := by
  intro s hpend hreact hadv hm
  rw [exec_service_of_enabled (serviceEnabled_iff.2 ⟨hpend, hreact⟩),
    serviceTrigger_advance hadv (resetOnAdvance_counter hm)]
  rfl

/-- Settles O23: an advance with the count at the old threshold and the threshold 0. -/
theorem serviceAdvancesInLegacyMode : Obligations.ServiceAdvancesInLegacyMode := by
  intro s hpend hreact hadv hm
  rw [exec_service_of_enabled (serviceEnabled_iff.2 ⟨hpend, hreact⟩),
    serviceTrigger_advance hadv (resetOnAdvance_legacy hadv hm)]
  rfl

/-- Settles O25: SERVICE clears PEND; of the steps, only TRIG and a SAMPLE's rise can leave PEND other than 0. -/
theorem serviceClearsPendUntilTheNextTrig : Obligations.ServiceClearsPendUntilTheNextTrig := by
  refine ⟨fun s hen => ?_, fun s t h hpend ht => ?_⟩
  · have hcleared : (serviceTrigger s).pend = 0#1 := by simp [serviceTrigger_frame]
    exact ⟨_, exec_service_of_enabled hen, hcleared, by simp [serviceEnabled, hcleared]⟩
  · obtain ⟨sc, n, hcases⟩ := step_cases h
    rcases hcases with ⟨hhd, -⟩ | ⟨-, hr⟩ | ⟨b, -, rfl⟩ | ⟨-, rfl⟩ | ⟨-, hh⟩ | ⟨l, -, rfl⟩ | ⟨hhd, rfl⟩
    · exact .inl hhd
    · cases hr; exact absurd rfl ht
    · exact absurd hpend ht
    · split at ht
      · exact absurd (by simp [serviceTrigger_frame]) ht
      · exact absurd hpend ht
    · exact absurd (by simp [hostStep_frame hh, hpend]) ht
    · exact absurd hpend ht
    · exact .inr ⟨hhd, sampleInput_pend (s := taken s sc n) (hpend ▸ ht)⟩

/-- Settles O26: in either mode an advance writes STATE and PINS for the same successor. -/
theorem advanceDrivesPinsOfTheNewState : Obligations.AdvanceDrivesPinsOfTheNewState := by
  intro s hen hadv
  obtain ⟨c, n, q, hnext, -⟩ := serviceTrigger_advances hadv
  exact ⟨_, exec_service_of_enabled hen, by rw [hnext], by rw [hnext]⟩

/-- Settles O27: `pulses_before_distance` and `pulses_at_distance`. -/
theorem nextAdvanceComesAfterTheDistance : Obligations.NextAdvanceComesAfterTheDistance := by
  refine fun s hcfg hntrig hreact => ⟨fun j hj => ?_, ?_⟩
  · obtain ⟨p, q, hrun⟩ := pulses_before_distance hcfg hntrig hreact rfl hj
    exact ⟨_, hrun, rfl, rfl, rfl, rfl, rfl⟩
  · obtain ⟨c, n, q, hrun, hmodes⟩ := pulses_at_distance hcfg hntrig hreact rfl
    exact ⟨_, hrun, rfl, rfl, rfl, hmodes⟩

/-- Settles O28: from 0 the distance is NEPP; with NEPP = 1 in COUNTER mode every pulse leads back to NTRIG = 0. -/
theorem steadyStateAdvancesEveryThresholdPulses : Obligations.SteadyStateAdvancesEveryThresholdPulses := by
  intro s hcfg hreact hzero hnepp
  have hntrig : s.ntrig < 2 ^ s.cfg.wCnt := hzero ▸ Nat.two_pow_pos _
  have hd : pulsesToAdvance s.cfg.wCnt s.ntrig s.nepp.toNat = s.nepp.toNat := by
    rw [hzero]; exact pulsesToAdvance_of_lt (threshold_lt hcfg s.nepp) hnepp
  refine ⟨fun j hj => ?_, ?_, fun hone hm j => ?_⟩
  · obtain ⟨p, q, hrun⟩ := pulses_before_distance hcfg hntrig hreact hd hj
    exact ⟨_, hrun, rfl⟩
  · obtain ⟨c, n, q, hrun, hcounter, -⟩ := pulses_at_distance hcfg hntrig hreact hd
    exact ⟨_, hrun, rfl, hcounter⟩
  · obtain ⟨t, hrun, ht0, ht1, htcfg, htreact⟩ := pulses_threshold_one hcfg hreact hm hzero hone j
    obtain ⟨u, hpulse, hstate, hu0, -⟩ := pulse_threshold_one (htcfg ▸ hcfg) htreact (htcfg ▸ hm) ht0 ht1
    exact ⟨t, u, hrun, hpulse, hstate, hu0⟩

/-- Settles O29: after WRNEPP m the distance from a count k at or above m is 2^W_CNT - k + m. -/
theorem thresholdNotAboveCountWaitsForTheWrap : Obligations.ThresholdNotAboveCountWaitsForTheWrap := by
  intro s m hcfg hntrig hreact hm
  have hd := pulsesToAdvance_of_le hntrig hm
  refine ⟨{ s with nepp := m }, rfl, rfl, fun j hj => ?_, ?_⟩
  · obtain ⟨p, q, hrun⟩ := pulses_before_distance (s := { s with nepp := m }) hcfg hntrig hreact hd hj
    exact ⟨_, hrun, rfl⟩
  · obtain ⟨c, n, q, hrun, -⟩ := pulses_at_distance (s := { s with nepp := m }) hcfg hntrig hreact hd
    exact ⟨_, hrun, rfl⟩

/-- Settles O30: `pulses_threshold_zero` twice, the second time from NTRIG = 0. -/
theorem zeroThresholdAdvancesOncePerWrap : Obligations.ZeroThresholdAdvancesOncePerWrap := by
  intro s hcfg hntrig hreact hm hnepp
  obtain ⟨hbefore, t, hrun, hstate, htnepp, htcfg, htreact, hcounter⟩ :=
    pulses_threshold_zero hcfg hntrig hreact hnepp
  have ht0 := hcounter hm
  obtain ⟨hbefore', u, hrun', hstate', hunepp, -, -, hcounter'⟩ :=
    pulses_threshold_zero (htcfg ▸ hcfg) (ht0 ▸ Nat.two_pow_pos _) htreact htnepp
  simp only [ht0, htcfg, Nat.sub_zero] at hbefore' hrun' hcounter'
  exact ⟨fun j hj => (hbefore j hj).imp fun _ ⟨h, hst, _⟩ => ⟨h, hst⟩, t, hrun, hstate, ht0, htnepp,
    fun j hj => (hbefore' j hj).imp fun _ ⟨h, hst, _⟩ => ⟨h, hst⟩, u, hrun', hstate', hcounter' hm, hunepp⟩

/-- Settles O31: the advance leaves NEPP = 0 and NTRIG = m, from where `pulses_threshold_zero` counts. -/
theorem legacyAdvanceStallsUntilTheWrap : Obligations.LegacyAdvanceStallsUntilTheWrap := by
  intro s hcfg hreact hpend hm hadv
  obtain ⟨t, hservice, htnepp, htntrig, htcfg, htreact⟩ :
      ∃ t, exec .service s = .next t ∧ t.nepp = 0#8 ∧ t.ntrig = s.nepp.toNat ∧ t.cfg = s.cfg ∧ t.react = 1#1 :=
    ⟨_, serviceAdvancesInLegacyMode s hpend hreact hadv hm, rfl, rfl, rfl, hreact⟩
  obtain ⟨hbefore, u, hrun, hstate, hnepp, -⟩ :=
    pulses_threshold_zero (htcfg ▸ hcfg) (by rw [htcfg, htntrig]; exact threshold_lt hcfg _) htreact htnepp
  rw [htcfg, htntrig] at hbefore hrun
  exact ⟨t, hservice, htnepp, htntrig, hbefore, u, hrun, hstate, hnepp⟩

/-- Settles O16: the two cases of the latch. -/
theorem trigSetsPendWhenLatched : Obligations.TrigSetsPendWhenLatched :=
  fun _ => ⟨exec_trig_of_latched, exec_trig_of_lost⟩

/-- Settles O24: the two cases of `succState`, and a successor that is never 0. -/
theorem successorCyclesThroughSeven : Obligations.SuccessorCyclesThroughSeven :=
  ⟨fun d => ⟨succState_of_le, succState_of_not_le, state_range.2 (succState_ne_zero d)⟩, rfl, rfl, rfl, rfl⟩

end Sys2Proof
end

section
/-! PROOFS. The port interface (42_port_interface.md): the writes and the reads of R142 to R152, and who writes the
count (R153). -/

namespace Sys2Proof.Machine

variable {s t : State}

/-- WRSTATE of a state in range writes STATE only (42_port_interface.md R142). -/
theorem exec_wrstate {d : BitVec 3} (hd : d ≠ 0#3) (s : State) :
    exec (.wrstate d) s = .next { s with state := d } :=
  stateRangeChecked_next.2 ⟨hd, rfl⟩

/-! Who writes NTRIG -/

/-- NTRIG after a SERVICE: incremented, or 0 at an advance in COUNTER mode (41_trigger_counter.md R117, R119). -/
theorem serviceTrigger_ntrig (s : State) :
    (serviceTrigger s).ntrig = (s.ntrig + 1) % 2 ^ s.cfg.wCnt ∨
      (s.cfg.threshMode = .counter ∧ (serviceTrigger s).ntrig = 0) := by
  by_cases hadv : NextServiceAdvances s
  · obtain ⟨c, n, q, hnext, hcounter, hlegacy⟩ := serviceTrigger_advances hadv
    rw [hnext]
    cases hm : s.cfg.threshMode with
    | counter => exact .inr ⟨rfl, (hcounter hm).1⟩
    | legacy => exact .inl ((hlegacy hm).1.trans hadv.symm)
  · rw [serviceTrigger_below hadv]
    exact .inl rfl

/-- An instruction that is neither SERVICE nor RESET leaves NTRIG: the port operations by their frame, a serial byte
since it writes the host's own registers only, TRIG since it writes PEND only. -/
theorem exec_ntrig {i : Instr} (hservice : i ≠ .service) (hreset : i ≠ .reset) (h : exec i s = .next t) :
    t.ntrig = s.ntrig := by
  by_cases hport : isPortRow i = true
  · obtain ⟨hntrig, -⟩ := exec_port_frame hport h
    exact hntrig
  · cases i
    case trig => cases h; simp
    case entryDigit d =>
      simp only [exec, execEntryDigit] at h
      split at h <;> cases h <;> rfl
    case service => contradiction
    case reset => contradiction
    case stageState | confirm | stageToggle | stageNepp | stageNop | entryIgnore => cases h; rfl
    all_goals exact absurd rfl hport

end Sys2Proof.Machine

namespace Sys2Proof

open Machine

/-- Settles O15: a PORT word is a port operation, whose frame keeps the count and the latch; PINS by `issuePort_pins`;
NTRIG changes in a SERVICE that is enabled, and in no other instruction but RESET. -/
theorem portCannotWriteCountOrLatch : Obligations.PortCannotWriteCountOrLatch := by
  refine ⟨fun w s t h => ?_, fun i s t h hreset => ?_⟩
  · obtain ⟨i, -, hport, hexec⟩ := issuePort_next h
    obtain ⟨hntrig, hpend, hsync, hedge, -⟩ := exec_port_frame hport hexec
    exact ⟨hntrig, hpend, hsync, hedge, issuePort_pins h⟩
  · by_cases hservice : i = .service
    · subst hservice
      cases hen : serviceEnabled s with
      | true =>
        cases (exec_service_of_enabled hen).symm.trans h
        exact .inr ⟨rfl, serviceTrigger_ntrig s⟩
      | false =>
        cases (exec_service_of_disabled hen).symm.trans h
        exact .inl rfl
    · exact .inl (exec_ntrig hservice hreset h)

/-- Settles O12: a state in range by `exec_wrstate`; 0 fails the range check. -/
theorem wrstateWritesStateOnly : Obligations.WrstateWritesStateOnly :=
  fun s => ⟨fun _ hd => exec_wrstate hd s, rfl⟩

/-- Settles O13: each write is one update of the state by definition. -/
theorem flagAndThresholdWritesTouchOneRegister : Obligations.FlagAndThresholdWritesTouchOneRegister :=
  fun _ => ⟨fun _ => rfl, fun _ => rfl, fun _ => rfl⟩

/-- Settles O14: each read is `State.returnValue` of its register by definition. -/
theorem readsReturnTheirRegister : Obligations.ReadsReturnTheirRegister :=
  fun _ => ⟨rfl, rfl, rfl, rfl, rfl, rfl, rfl⟩

end Sys2Proof
end

section
/-! PROOFS. The serial host (43_serial_host.md): it never stops (R188), how AwaitingDigitEntry ends (R187), and what
each byte does when no other agent steps before its script ends (R172 to R186). -/

namespace Sys2Proof.Machine

variable {s t : State}

/-! The host never stops (R188) -/

/-- Only the reserved rows and a state operand 0 stop: every other instruction has a next state. -/
theorem exec_next_of_runs {i : Instr} (h : portRuns i = true) (s : State) : ∃ t, exec i s = .next t := by
  cases i
  case apply d => exact ⟨_, exec_apply (of_decide_eq_true h) s⟩
  case wrstate d => exact ⟨_, exec_wrstate (of_decide_eq_true h) s⟩
  case reservedOp0 | reservedOp6 | reservedOp7 | reservedOpF => cases h
  case entryDigit d =>
    simp only [exec, execEntryDigit]
    split <;> exact ⟨_, rfl⟩
  all_goals exact ⟨_, rfl⟩

/-- A PORT word that runs has a next state. -/
theorem issuePort_next_of_runs {w : PortWord} (h : wordRuns w = true) (s : State) : ∃ t, issuePort w s = .next t := by
  cases hdec : decodePort w with
  | ok i =>
    rw [issuePort_ok hdec]
    exact exec_next_of_runs (by simpa [wordRuns, hdec] using h) s
  | error e => simp [wordRuns, hdec] at h

/-- A micro-step whose act runs has a next state. -/
theorem runMicro_next_of_runs {m : HostMicro} (h : actRuns m.act = true) (s : State) : ∃ t, runMicro m s = .next t := by
  cases hact : m.act with
  | tx b => exact ⟨_, runMicro_of_next (runAct_of_tx hact)⟩
  | port w =>
    obtain ⟨t, ht⟩ := issuePort_next_of_runs (w := w) (by simpa [hact, actRuns] using h) s
    exact ⟨_, runMicro_of_next ((runAct_of_port hact).trans ht)⟩

/-- The serial host has a next state wherever its rules put it: its script issues words that run, a byte always runs,
and without either it waits. -/
theorem hostStep_next_of_serial (hs : s.Inv) (hser : s.cfg.host = .serial) : ∃ t, hostStep s = .next t := by
  obtain ⟨-, -, -, -, -, hscript, hhost⟩ := hs
  have hq : s.portq = [] := by rwa [hostOk_serial hser, List.isEmpty_iff] at hhost
  cases hpos : s.hostPos with
  | cons m ms =>
    rw [hpos] at hscript
    obtain ⟨-, hruns, -⟩ := scriptOk_cons.1 hscript
    rw [hostStep_of_hostPos hpos]
    exact runMicro_next_of_runs hruns _
  | nil =>
    cases hrx : s.rxq with
    | nil => exact ⟨s, hostStep_of_hostWaits (by simp [hostWaits, hpos, hq, hrx])⟩
    | cons b bs =>
      obtain ⟨_, _, _, _, hexec⟩ := exec_serial_next s.mode b { s with rxq := bs }
      exact ⟨_, (hostStep_of_rxq hpos hq hser hrx).trans hexec⟩

/-- Where the host has a next state, an entry of the schedule has one: the other agents never stop. -/
theorem runEvent_next (hhost : ∃ t, hostStep s = .next t) (e : Event) : ∃ t, runEvent e s = .next t := by
  cases e
  case trig => exact exec_next_of_runs (i := .trig) rfl s
  case reset => exact exec_next_of_runs (i := .reset) rfl s
  case svc => exact exec_next_of_runs (i := .service) rfl s
  case host | hostRun => exact hhost
  case rx | level | sample => exact ⟨_, rfl⟩

/-- With the serial host every step has a next state. -/
theorem step_next_of_serial (hs : s.Inv) (hser : s.cfg.host = .serial) : ∃ t, step s = .next t := by
  have hservice := exec_next_of_runs (i := .service) rfl
  cases hsched : s.sched with
  | cons e rest =>
    rw [step_of_sched hsched]
    exact runEvent_next (hostStep_next_of_serial (s := { s with sched := afterEvent e rest s }) hs hser) e
  | nil =>
    simp only [step, nextStep, hsched, unscheduledStep]
    split
    · exact hservice _
    · exact hostStep_next_of_serial hs hser
    · split
      · exact hservice _
      · exact hostStep_next_of_serial (s := taken s [] (s.freeCount + 1)) hs hser

/-! The end of a threshold entry (R185, R187) -/

/-- In AwaitingDigitEntry the reaction is disabled. -/
theorem react_of_awaiting (hs : s.Inv) (hm : s.mode = .awaitingDigitEntry) : s.react = 0#1 := by
  obtain ⟨-, -, -, -, -, hscript, -⟩ := hs
  simpa [entryDisabled, hm] using entryDisabled_of_scriptOk hscript

/-- A micro-step that the rules allow leaves AwaitingDigitEntry as the WRREACT 1 that ends the second digit, and in no
other way. -/
theorem runMicro_leaves_entry {x : HostMicro} {rest : List HostMicro} (hm : s.mode = .awaitingDigitEntry)
    (hlink : linkOk s.mode x rest = true) (h : runMicro x s = .next t) :
    t.mode = .awaitingDigitEntry ∨
      (t.mode = .idle ∧ t.react = 1#1 ∧ t.tens = none ∧ x = microPort (.wrreact 1#1) .leaveEntry) := by
  obtain ⟨u, hact, rfl⟩ := runMicro_next h
  obtain ⟨-, -, -, -, -, hmode, -⟩ := runAct_frame hact
  cases hth : x.andThen
  case leaveEntry =>
    have hlast : x.act = .port (portOf (.wrreact 1#1)) := by simpa [linkOk, hth] using hlink
    have hreact : u.react = 1#1 := by
      rw [runAct_react hact, hlast]
      rfl
    exact .inr ⟨rfl, hreact, rfl, by rw [microPort, ← hlast, ← hth]⟩
  all_goals
    left
    rw [applyThen_mode, hmode, hm]
    rfl

/-- The host leaves AwaitingDigitEntry inside a script only, with the micro-step that `runMicro_leaves_entry` names: a
byte keeps the mode, and a port-list host is never in it. -/
theorem hostStep_leaves_entry (hs : s.Inv) (hm : s.mode = .awaitingDigitEntry) (h : hostStep s = .next t) :
    t.mode = .awaitingDigitEntry ∨
      (t.mode = .idle ∧ t.react = 1#1 ∧ t.tens = none ∧
        ∃ rest, s.hostPos = microPort (.wrreact 1#1) .leaveEntry :: rest) := by
  obtain ⟨-, -, -, -, -, hscript, hhost⟩ := hs
  rcases hostStep_cases h with ⟨m, rest, hpos, hmicro⟩ | ⟨-, w, ws, hq, -⟩ | ⟨-, -, -, b, bs, -, he⟩ | ⟨-, rfl⟩
  · rw [hpos] at hscript
    obtain ⟨-, -, hlink, -⟩ := scriptOk_cons.1 hscript
    refine (runMicro_leaves_entry (s := { s with hostPos := rest }) hm hlink hmicro).imp_right ?_
    rintro ⟨hidle, hreact, htens, rfl⟩
    exact ⟨hidle, hreact, htens, rest, hpos⟩
  · obtain ⟨-, -, hidle⟩ := portList_of_portq hhost (by simp [hq])
    rw [hm] at hidle
    cases hidle
  · obtain ⟨_, _, _, _, hx⟩ := exec_serial_next s.mode b { s with rxq := bs }
    cases hx.symm.trans he
    exact .inl hm
  · exact .inl hm

/-! The scripts, with no other agent in between -/

/-- A script that is one message ends with it transmitted, when what goes with its last byte adds nothing to it. -/
theorem finishScript_message {bs : List Byte} {th : HostThen} {n : Nat} (hs : s.hostPos = microTxs bs th)
    (hb : bs ≠ []) (hn : bs.length ≤ n) (hth : ∀ u, (applyThen th u).hostPos = u.hostPos := by intros; rfl) :
    finishScript n s = .next (applyThen th { s with hostPos := [], txq := s.txq ++ bs }) := by
  rw [finishScript_txs bs th n [] hb hn (by rw [hs, List.append_nil])]
  exact finishScript_nil (hth _) _

/-- The read of STATE at the end of a script prints it after the message's start (R172, R180). -/
theorem finishScript_printState {pre : List Byte} {n : Nat}
    (hs : s.hostPos = [microPort .rdstate (.printValue pre)]) (hn : pre.length + 2 ≤ n) :
    finishScript (n + 1) s = .next { s with
      hostPos := [], portData := s.state.toNat, txq := s.txq ++ (pre ++ dec s.state.toNat ++ [newline]) } := by
  obtain ⟨-, hlen⟩ := dec_length 0 s.state.toNat (by omega)
  rw [finishScript_port rfl hs rfl]
  exact finishScript_message (bs := pre ++ dec s.state.toNat ++ [newline]) (th := .nothing) (List.append_nil _)
    (by simp) (by simp; omega)

/-- The read of LINE closes an open line, which takes three micro-steps, or does nothing more (R180, steps 4 to 6). -/
theorem finishScript_closeLine {rest : List HostMicro} (hs : s.hostPos = microPort .rdline .closeLine :: rest)
    (n : Nat) : ∃ k, n ≤ k ∧ finishScript (n + 3) s = finishScript k { s with
      hostPos := rest, line := 0#1, portData := s.line.toNat,
      txq := s.txq ++ (if s.line = 1#1 then [newline] else []) } := by
  rw [finishScript_port rfl hs rfl]
  rcases bit_cases s.line with hline | hline
  · refine ⟨n, le_rfl, ?_⟩
    rw [finishScript_txs [newline] .nothing (n + 2) (microPort (.wrline 0#1) .nothing :: rest) (by simp) (by simp)
      (by simp [applyThen, State.returnValue, zext, hline, closeLineScript, microTxs])]
    refine (finishScript_port (i := .wrline 0#1) rfl rfl rfl).trans ?_
    simp [applyThen, State.returnValue, zext, hline]
  · refine ⟨n + 2, by omega, ?_⟩
    simp [applyThen, State.returnValue, zext, hline]

/-- CONFIRM_STATE to its end (R180). -/
theorem finishScript_confirmState {d : BitVec 3} (hd : d ≠ 0#3) (hs : s.hostPos = confirmStateScript d) :
    finishScript 64 s = .next { s with
      pins := pinsOf d, state := d, pds := none, line := 0#1, portData := d.toNat, hostPos := [],
      txq := s.txq ++ (if s.line = 1#1 then [newline] else []) ++ msgStateSet d.toNat } := by
  rw [finishScript_port rfl hs (exec_apply hd _)]
  refine (finishScript_port rfl rfl (exec_wrstate hd _)).trans ?_
  obtain ⟨k, hk, hline⟩ := finishScript_closeLine (s := { s with
    pins := pinsOf d, state := d, pds := none,
    hostPos := [microPort .rdline .closeLine, microPort .rdstate (.printValue stateSetPrefix)] }) rfl 59
  refine hline.trans ?_
  obtain ⟨k, rfl⟩ : ∃ j, k = j + 1 := ⟨k - 1, by omega⟩
  exact finishScript_printState rfl (le_trans (by decide) (Nat.le_of_succ_le_succ hk))

/-- CONFIRM_TOGGLE to its end (R181). -/
theorem finishScript_confirmToggle (hs : s.hostPos = confirmToggleScript) :
    finishScript 64 s = .next { s with
      react := 1#1 - s.react, pi := none, portData := s.react.toNat, hostPos := [],
      txq := s.txq ++ (if s.react = 1#1 then msgReactOff else msgReactOn) } := by
  have hflip : BitVec.ofNat 1 (1 - s.react.toNat) = 1#1 - s.react := by
    generalize s.react = r; revert r; decide
  have hone : s.react.toNat = 1 ↔ s.react = 1#1 := by
    generalize s.react = r; revert r; decide
  have hlen : ∀ r : BitVec 1, (if r = 1#1 then msgReactOff else msgReactOn) ≠ [] ∧
    (if r = 1#1 then msgReactOff else msgReactOn).length ≤ 62 := by decide
  rw [finishScript_port rfl hs rfl]
  refine (finishScript_port (i := .wrreact (BitVec.ofNat 1 (1 - s.react.toNat))) rfl rfl rfl).trans ?_
  rw [finishScript_message (bs := if s.react = 1#1 then msgReactOff else msgReactOn) (th := .clearPi)
    (by simp [State.returnValue, zext, hone]) (hlen _).1 (hlen _).2, hflip]
  rfl

/-- CONFIRM_NEPP to its end (R182). -/
theorem finishScript_confirmNepp (hs : s.hostPos = confirmNeppScript) :
    finishScript 64 s = .next { s with
      react := 0#1, tens := none, mode := .awaitingDigitEntry, hostPos := [], txq := s.txq ++ msgPrompt } := by
  rw [finishScript_port rfl hs rfl]
  exact finishScript_message (bs := msgPrompt) (th := .enterEntry) rfl (by decide) (by decide)

/-- The second digit's script to its end, for a threshold of at most two digits (R185). -/
theorem finishScript_entrySecond {n : BitVec 8} (hn : n.toNat ≤ 99) (hs : s.hostPos = entrySecondScript n) :
    finishScript 64 s = .next { s with
      nepp := n, txq := s.txq ++ msgNeppSet n.toNat, pi := none, react := 1#1, tens := none, mode := .idle,
      hostPos := [] } := by
  obtain ⟨-, hlen⟩ := dec_length 1 n.toNat (by omega)
  have hmsg : (msgNeppSet n.toNat).length ≤ 20 := by simp [msgNeppSet, neppSetPrefix, ascii]; omega
  rw [finishScript_port rfl hs rfl]
  obtain ⟨k, hk⟩ : ∃ k, 63 - (msgNeppSet n.toNat).length = k + 1 := ⟨62 - (msgNeppSet n.toNat).length, by omega⟩
  rw [applyThen_nothing, finishScript_txs (msgNeppSet n.toNat) .clearPi 63 [microPort (.wrreact 1#1) .leaveEntry]
    (by simp [msgNeppSet]) (by omega) rfl, hk]
  refine (finishScript_port (i := .wrreact 1#1) rfl rfl rfl).trans ?_
  exact finishScript_nil rfl k

/-- The letter branch to its end: PDS cleared, PI as staged, the echo, and LINE kept (R175). -/
theorem finishScript_letterBranch (c : Byte) (p : Option PendingInstr) (s : State) :
    finishScript 64 (letterBranch c p s) = .next { letterBranch c p s with hostPos := [], txq := s.txq ++ [c] } :=
  finishScript_message (bs := [c]) (th := .nothing) rfl (by simp) (by simp)

/-! The first micro-step of a byte -/

/-- CONFIRM changes the host's position only, and dispatches on PDS and PI (R179). -/
theorem exec_confirm (s : State) : exec .confirm s = .next { s with hostPos := confirmScript s.pds s.pi } := rfl

/-- The first digit becomes TENS (R184). -/
theorem exec_entryDigit_first (h : s.tens = none) (d : BitVec 4) :
    exec (.entryDigit d) s = .next { s with tens := some d, hostPos := [] } := by
  simp only [exec, execEntryDigit, h]
  rfl

/-- The second digit starts its script, with the threshold of both digits (R185). -/
theorem exec_entryDigit_second {x : BitVec 4} (h : s.tens = some x) (d : BitVec 4) :
    exec (.entryDigit d) s = .next (s.startScript (entrySecondScript (entryValue x d))) := by
  simp only [exec, execEntryDigit, h]

/-- Two decimal digits make a number of at most two digits, which 8 bits hold (R185). -/
theorem entryValue_toNat {x d : BitVec 4} (hx : x.toNat ≤ 9) (hd : d.toNat ≤ 9) :
    (entryValue x d).toNat = 10 * x.toNat + d.toNat := by
  rw [entryValue, BitVec.toNat_ofNat]
  omega

/-- A byte that is no digit is ignored in AwaitingDigitEntry (R186). -/
theorem decodeEntry_of_not_digit {b : Byte} (h : ¬ (0x30 ≤ b.toNat ∧ b.toNat ≤ 0x39)) :
    decodeEntry b = .entryIgnore b := by
  simp only [decodeEntry, isDecimalDigit, decide_eq_true_eq, if_neg h]

/-- Between bytes an ignored byte has no effect (R186). -/
theorem exec_entryIgnore (hpos : s.hostPos = []) (b : Byte) : exec (.entryIgnore b) s = .next s := by
  have hsame : { s with hostPos := [] } = s := by rw [← hpos]
  exact congrArg Host.Outcome.next hsame

end Sys2Proof.Machine

namespace Sys2Proof

open Machine

/-- Settles O50: the serial host has a next state and the other agents always have one; that the invariant and the
parameters last is O49 and O53. -/
theorem serialHostNeverStops : Obligations.SerialHostNeverStops := by
  intro s hs hser
  obtain ⟨t, ht⟩ := step_next_of_serial hs hser
  have hcfg : t.cfg = s.cfg := noStepChangesTheParameters s t ht
  exact ⟨t, ht, stepKeepsTheInvariant s t hs ht, by rw [hcfg, hser]⟩

/-- Settles O34: BOOT's read of STATE prints it after the start of M1. -/
theorem bootPrintsTheStateOnce : Obligations.BootPrintsTheStateOnce :=
  fun _ hs => finishScript_printState hs (by decide)

/-- Settles O37: a staged digit dispatches to CONFIRM_STATE. -/
theorem confirmSetsTheStagedState : Obligations.ConfirmSetsTheStagedState := by
  intro d s hd hpds
  refine ⟨{ s with hostPos := confirmStateScript d }, ?_, rfl, finishScript_confirmState hd rfl⟩
  rw [exec_confirm, hpds]
  rfl

/-- Settles O38: a staged toggle dispatches to CONFIRM_TOGGLE. -/
theorem confirmTogglesTheReaction : Obligations.ConfirmTogglesTheReaction := by
  intro s hpds hpi
  exact ⟨_, exec_confirm s, finishScript_confirmToggle (by simp only [confirmScript, hpds, hpi])⟩

/-- Settles O42: with TENS held a digit starts the script of the second digit. -/
theorem secondEntryDigitSetsTheThreshold : Obligations.SecondEntryDigitSetsTheThreshold := by
  intro x d s hx hd htens
  have hvalue := entryValue_toNat hx hd
  refine ⟨entryValue x d, hvalue, _, exec_entryDigit_second htens d, ?_⟩
  rw [← hvalue]
  exact finishScript_entrySecond (by omega) rfl

/-- Settles O58: the input side leaves the mode, SERVICE is not enabled, and the host by `hostStep_leaves_entry`; where
the mode stays, REACT is 0 by the invariant. -/
theorem entryEndsOnlyWithItsSecondDigit : Obligations.EntryEndsOnlyWithItsSecondDigit := by
  intro s t hs hm hr h
  have hreact := react_of_awaiting hs hm
  have hstays (hmode : t.mode = .awaitingDigitEntry) : t.mode = .awaitingDigitEntry ∧ t.react = 0#1 :=
    ⟨hmode, react_of_awaiting (stepKeepsTheInvariant s t hs h) hmode⟩
  refine ⟨hreact, ?_⟩
  rcases step_writer h with ⟨hhd, -⟩ | ⟨_, _, _, _, _, _, _, -, rfl⟩ | ⟨hen, -⟩ | ⟨-, sc, n, hh⟩
  · exact absurd hhd hr
  · exact .inl (hstays hm)
  · rw [serviceEnabled_of_react_zero hreact] at hen; cases hen
  · exact (hostStep_leaves_entry (s := taken s sc n) hs hm hh).imp hstays id

/-- Settles O59: SERVICE leaves the host's position, and the WRSTATE after it leaves the pins that the advance drove. -/
theorem serviceBetweenApplyAndWrstateLeavesItsPins : Obligations.ServiceBetweenApplyAndWrstateLeavesItsPins := by
  intro d s rest hd hen hadv hpos
  obtain ⟨-, -, -, -, -, -, -, -, hkept, -⟩ := serviceTrigger_frame s
  have hwrite := (issuePort_portOf (i := .wrstate d) rfl).trans
    (exec_wrstate hd { serviceTrigger s with hostPos := rest })
  have hhost := (hostStep_of_hostPos (hkept.trans hpos)).trans
    (runMicro_of_next ((runAct_of_port rfl).trans hwrite))
  refine ⟨_, _, exec_service_of_enabled hen, hhost, rfl, ?_, rfl⟩
  exact (serviceTrigger_pins s).trans (if_pos hadv)

/-- Settles O35: the echo is one message of two bytes, then WRLINE 1 ends the script. -/
theorem stageStateStagesAndEchoes : Obligations.StageStateStagesAndEchoes := by
  intro d s
  refine ⟨rfl, ?_⟩
  rw [finishScript_txs [backspace, digitByte d.toNat] .nothing 64 [microPort (.wrline 1#1) .nothing] (by simp)
    (by simp) rfl]
  refine (finishScript_port (i := .wrline 1#1) rfl rfl rfl).trans ?_
  exact finishScript_nil rfl _

/-- Settles O36: the three letter rows are the letter branch, with their byte and what it stages. -/
theorem letterBytesClearTheDigitAndEcho : Obligations.LetterBytesClearTheDigitAndEcho :=
  fun s => ⟨⟨_, rfl, finishScript_letterBranch 0x69#8 (some .toggleTriggerReaction) s⟩,
    ⟨_, rfl, finishScript_letterBranch 0x6E#8 (some .setPulseThreshold) s⟩,
    fun c => ⟨_, rfl, finishScript_letterBranch c none s⟩⟩

/-- Settles O39: a staged threshold entry dispatches to CONFIRM_NEPP. -/
theorem confirmStartsThresholdEntry : Obligations.ConfirmStartsThresholdEntry := by
  intro s hpds hpi
  exact ⟨_, exec_confirm s, finishScript_confirmNepp (by simp only [confirmScript, hpds, hpi])⟩

/-- Settles O40: with nothing staged CONFIRM dispatches to the empty script, which is the host's position already. -/
theorem confirmWithNothingStagedDoesNothing : Obligations.ConfirmWithNothingStagedDoesNothing := by
  intro s hpds hpi hpos
  have hempty : confirmScript s.pds s.pi = s.hostPos := by simp only [confirmScript, hpds, hpi, hpos]
  rw [exec_confirm, hempty]

/-- Settles O41: the first digit leaves the empty script, which is the host's position already. -/
theorem firstEntryDigitIsTheTensDigit : Obligations.FirstEntryDigitIsTheTensDigit := by
  intro d s htens hpos
  rw [exec_entryDigit_first htens, ← hpos]

/-- Settles O43: the byte is no digit, so the host takes it as ENTRY_IGNORE. -/
theorem entryIgnoresOtherBytes : Obligations.EntryIgnoresOtherBytes := by
  intro b bs s hm hpos hq hser hrx hb
  have hclass : decodeSerial s.mode b = .entryIgnore b := by rw [hm]; exact decodeEntry_of_not_digit hb
  refine ⟨?_, exec_entryIgnore hpos b⟩
  rw [hostStep_of_rxq hpos hq hser hrx, hclass]
  exact exec_entryIgnore (s := { s with rxq := bs }) hpos b

end Sys2Proof
end

section
/-! PROOFS. The model's faults (60_exceptions.md): the word and the code that a PORT word's fault records, and what
never faults. -/

namespace Sys2Proof.Machine

variable {s : State}

/-- What a PORT word's fault is, by the first condition of R74 that the word meets. -/
theorem issuePort_fault {w : PortWord} {f : Fault} (h : issuePort w s = .fault f) :
    (HasReservedOp w ∧ f = .reservedOp w) ∨
    (¬ HasReservedOp w ∧ HasReservedBits w ∧ f = .reservedBits w) ∨
    (¬ HasReservedOp w ∧ ¬ HasReservedBits w ∧ HasStateOutOfRange w ∧ f = .stateRange w) := by
  rcases issuePort_conditions w s with ⟨hop, hf⟩ | ⟨hop, ⟨hbits, hf⟩ | ⟨hbits, ⟨hrange, hf⟩ | ⟨-, t, ht⟩⟩⟩
  · cases hf.symm.trans h
    exact .inl ⟨hop, rfl⟩
  · cases hf.symm.trans h
    exact .inr (.inl ⟨hop, hbits, rfl⟩)
  · cases hf.symm.trans h
    exact .inr (.inr ⟨hop, hbits, hrange, rfl⟩)
  · cases ht.symm.trans h

end Sys2Proof.Machine

namespace Sys2Proof

open Machine

/-- Settles O5: `issuePort_fault` for a PORT word, whose cases are the codes; SERVICE, TRIG and RESET answer a next state
by definition, and a byte by `exec_serial_next`. -/
theorem faultCodesAreTheLowestThatHold : Obligations.FaultCodesAreTheLowestThatHold := by
  refine ⟨fun w s f h => ?_, fun s => ⟨⟨_, rfl⟩, ⟨_, rfl⟩, ⟨_, rfl⟩⟩, fun m b s => ?_⟩
  · rcases issuePort_fault h with ⟨hop, rfl⟩ | ⟨hop, hbits, rfl⟩ | ⟨hop, hbits, hrange, rfl⟩
    · simp [faultWord, faultCode, hop]
    · simp [faultWord, faultCode, hop, hbits]
    · simp [faultWord, faultCode, hop, hbits, hrange]
  · obtain ⟨p, q, r, x, hnext⟩ := exec_serial_next m b s
    exact ⟨_, hnext⟩

end Sys2Proof
end

section
/-! PROOFS. Reset and hazards (70_reset_and_hazards.md): the state right after reset. -/

namespace Sys2Proof

/-- Settles O33: State.reset is a literal state, so every field the table of R251 specifies reads off by definition. -/
theorem resetStateHasTheTableValues : Obligations.ResetStateHasTheTableValues :=
  ⟨rfl, rfl, rfl, rfl, rfl, rfl, rfl, rfl, rfl, rfl, rfl, rfl⟩

end Sys2Proof
end

section
/-! PROOFS. The input stage (41_trigger_counter.md): the shift of the synchronizer and SAMPLE's edge test, and a SERVICE
that is held. -/

namespace Sys2Proof.Machine

variable {s : State}

/-- Every stage after the first takes the value of the one before it (41_trigger_counter.md R110). -/
theorem shiftSync_getElem?_succ {i : Nat} (h : i + 1 < s.sync.length) : (shiftSync s)[i + 1]? = s.sync[i]? := by
  rw [shiftSync, List.getElem?_cons_succ, List.getElem?_dropLast, if_pos (by omega)]

/-- The value that SAMPLE tests for a rise is the last stage after the shift. -/
theorem shiftSync_getLast? (s : State) : (shiftSync s).getLast? = some (syncOut s) := by
  simp [shiftSync, syncOut, List.getLast?_cons, List.getLastD_eq_getLast?]

/-- On a rise of the last stage a SAMPLE is the shift and then a TRIG. -/
theorem sampleInput_of_rise (h : syncOut s = true ∧ s.edgePrev = false) :
    sampleInput s = latchTrigger { s with sync := shiftSync s, edgePrev := syncOut s } := by
  simp [sampleInput, h]

/-- With no rise of the last stage a SAMPLE is the shift alone. -/
theorem sampleInput_of_not_rise (h : ¬ (syncOut s = true ∧ s.edgePrev = false)) :
    sampleInput s = { s with sync := shiftSync s, edgePrev := syncOut s } := by
  simp [sampleInput, h]

end Sys2Proof.Machine

namespace Sys2Proof

open Machine

/-- Settles O19: SAMPLE keeps the shifted chain and its last stage, and `sampleInput_of_rise` and
`sampleInput_of_not_rise` say when it is also a TRIG. -/
theorem sampleShiftsAndDetectsARise : Obligations.SampleShiftsAndDetectsARise := by
  intro s hchain
  obtain ⟨hsync, hprev⟩ : (sampleInput s).sync = shiftSync s ∧ (sampleInput s).edgePrev = syncOut s := by
    obtain ⟨p, hp⟩ := sampleInput_eq s
    simp [hp]
  refine ⟨sampleInput s, rfl, ?_⟩
  rw [hsync, hprev]
  refine ⟨shiftSync_length (List.length_pos_of_ne_nil hchain), rfl, fun _ => shiftSync_getElem?_succ,
    shiftSync_getLast? s, fun hrise => ?_, sampleInput_of_not_rise⟩
  rw [sampleInput_of_rise hrise]
  rfl

/-- Settles O20: SERVICE is enabled only with both flags 1, and one that is not enabled stands still. -/
theorem serviceIsHeldUnlessEnabled : Obligations.ServiceIsHeldUnlessEnabled := by
  intro s hflags
  have hheld : ¬ serviceEnabled s = true := by rwa [serviceEnabled_iff, not_and_or]
  exact exec_service_of_disabled (Bool.eq_false_iff.2 hheld)

end Sys2Proof
end

section
/-! PROOFS. RESET from any state, and the steps of a run with no schedule entry left (70_reset_and_hazards.md,
20_memory.md). -/

namespace Sys2Proof.Machine

variable {s : State}

/-- With no entry left an agent that is enabled steps (20_memory.md R55). -/
theorem step_of_sched_nil (h : s.sched = []) : step s = unscheduledStep s := by
  simp only [step, nextStep, h]

/-- While SERVICE is not enabled the host steps. -/
theorem unscheduledStep_of_service_disabled (h : serviceEnabled s = false) : unscheduledStep s = hostStep s := by
  simp only [unscheduledStep, h]

/-- While the host waits an enabled SERVICE steps. -/
theorem unscheduledStep_of_hostWaits (h : serviceEnabled s = true) (hw : hostWaits s = true) :
    unscheduledStep s = exec .service s := by
  simp only [unscheduledStep, h, hw]

/-- With both agents enabled one of them steps, a free value being drawn (log entry 6). -/
theorem unscheduledStep_of_both (h : serviceEnabled s = true) (hw : hostWaits s = false) :
    unscheduledStep s = exec .service { s with freeCount := s.freeCount + 1 } ∨
      unscheduledStep s = hostStep { s with freeCount := s.freeCount + 1 } := by
  simp only [unscheduledStep, h, hw]
  cases Config.serviceFirst s.freeCount with
  | true => exact .inl (if_pos rfl)
  | false => exact .inr (if_neg Bool.false_ne_true)

/-- A run is over with no entry left, SERVICE not enabled and the host waiting (70_reset_and_hazards.md R255). -/
theorem runOver_iff : runOver s = true ↔ s.sched = [] ∧ serviceEnabled s = false ∧ hostWaits s = true := by
  simp [runOver, and_assoc]

end Sys2Proof.Machine

namespace Sys2Proof

open Machine

/-- Settles O32: RESET is `resetWith` for any draws, whose specified fields are the table's values by definition; the
serial host's start is `hostStart` and `hostWords` at that host. -/
theorem resetGivesTheTableValues : Obligations.ResetGivesTheTableValues := by
  intro s
  refine ⟨_, rfl, rfl, rfl, rfl, rfl, rfl, rfl, rfl, rfl, rfl, rfl, rfl, fun hserial => ?_, rfl, rfl, rfl⟩
  simp [resetWith, hserial, hostStart, hostWords]

/-- Settles O46: the step is `unscheduledStep`, which runs an agent by which of the two are enabled; in a run that is
over it is the host's, and the host waits. -/
theorem unscheduledStepRunsAnEnabledAgent : Obligations.UnscheduledStepRunsAnEnabledAgent := by
  intro s hsched
  rw [step_of_sched_nil hsched]
  refine ⟨unscheduledStep_of_hostWaits, unscheduledStep_of_service_disabled, unscheduledStep_of_both, fun hover => ?_⟩
  obtain ⟨-, hservice, hwaits⟩ := runOver_iff.1 hover
  rw [unscheduledStep_of_service_disabled hservice, hostStep_of_hostWaits hwaits]

end Sys2Proof
end
